-- ==== Sys2Proof/Word.lean ====
section
/-! DEFINITION. The word types of the block (00_scope.md R9): bytes, the 16-bit quantities of the
wire format and of the CRC, the counters, the operation word and its two fields. -/

namespace Sys2Proof

/-- A byte is 8 bits (R9). -/
abbrev Byte := BitVec 8

/-- The payload length (R94), the trailer (R96) and the CRC register (R161) are 16 bits. -/
abbrev Half := BitVec 16

/-- A statistics counter has `CNT_W` = 32 bits (R7, R38). -/
abbrev Count := BitVec 32

/-- The operation word: `op` in bits 11:8, the byte operand in bits 7:0 (30_encoding.md R102). -/
abbrev OpWord := BitVec 12

/-- The operation code of R101. -/
abbrev OpCode := BitVec 4

end Sys2Proof
end

