-- ==== Sys2Proof/Syntax.lean ====
section
/-! DEFINITION. The operations of the block, one constructor of `Instr` per row of
spec/opcode_table.json, and what the host presents: the 12-bit word and the operands that travel
beside it (30_encoding.md R101, R102). -/

namespace Sys2Proof

/-- The signal metrics (type `SIG`, R7, R199). The spec leaves their format open and no rule reads
them: each is an uninterpreted token that is only copied (DESIGN CHOICE, log 11). -/
structure Sig where
  strength : Nat
  toNoise : Nat
  deriving DecidableEq, Repr, Inhabited

/-- A Message: the transformed content and the metrics it arrived with (R180, R199). -/
structure Message where
  content : List Byte
  signal : Sig
  deriving DecidableEq, Repr, Inhabited

/-- One operation as the host presents it (R102): the word, and beside it a byte sequence and a
`SIG` value. CRC16 and TRANSFORM take the sequence, MAYBE_FORWARD takes both (its Message),
RX_BYTE takes the metrics, the other operations take neither (log 6). -/
structure Request where
  word : OpWord
  seq : List Byte
  sig : Sig
  deriving DecidableEq, Repr, Inhabited

/-- The operations: every row of spec/opcode_table.json. The rows FEED.* partition FEED and the
rows MAYBE_FORWARD.* partition MAYBE_FORWARD (R102, R103); FEED.PRE.MATCH and FEED.PRE.DONE fix
their byte at 0xAA and carry none. -/
inductive Instr where
  | reset
  | feed (b : Byte)
  | feedPreMatch
  | feedPreDone
  | feedPreMiss (b : Byte)
  | feedHdrLenOk (b : Byte)
  | feedHdrLenBad (b : Byte)
  | feedHdrBody (b : Byte)
  | feedHdrDone (b : Byte)
  | feedPayByte (b : Byte)
  | feedPayDone (b : Byte)
  | feedPayOvf (b : Byte)
  | feedCrcFirst (b : Byte)
  | feedCrcOvf (b : Byte)
  | feedCrcOk (b : Byte)
  | feedCrcBad (b : Byte)
  | decReset
  | crc16 (s : List Byte)
  | transform (s : List Byte)
  | maybeForward (m : Message)
  | maybeForwardFwd (m : Message)
  | maybeForwardNone (m : Message)
  | statsRead
  | rxByte (b : Byte) (g : Sig)
  | reserved (op : OpCode) (b : Byte)
  deriving DecidableEq, Repr

end Sys2Proof
end

