-- ==== Sys2Proof/Config.lean ====
section
/-! DEFINITION. The configuration record of 00_scope.md R7: the fixed constants of the wire format
and of the CRC, and the parameters the host fixes before the first operation (R254). It is not
state (10_state.md R40). -/

namespace Sys2Proof

/-- `PREAMBLE`: eight bytes 0xAA (R7, R91). -/
def Config.preamble : List Byte := [0xAA, 0xAA, 0xAA, 0xAA, 0xAA, 0xAA, 0xAA, 0xAA]

/-- `PRE_LEN` (R7). -/
abbrev Config.preLen : Nat := 8

/-- `HLEN_MIN` (R7). -/
abbrev Config.hlenMin : Nat := 20

/-- `HLEN_MAX` (R7). -/
abbrev Config.hlenMax : Nat := 30

/-- `PLEN_OFF`: the payload length stands at header offsets 2 and 3 (R7, R94). -/
abbrev Config.plenOff : Nat := 2

/-- `TRL_LEN` (R7). -/
abbrev Config.trlLen : Nat := 2

/-- `CRC_INIT` (R7, R161). -/
def Config.crcInit : Half := 0xFFFF

/-- `CRC_POLY_R` (R7, R163). -/
def Config.crcPolyR : Half := 0xA001

/-- `CAP`: the capacity of the accumulation buffer (R7, R60). -/
abbrev Config.cap : Nat := 512

/-- The parameters that R254 has the host fix, a named argument of every operation that
reads them (`execWith`, `stepWith`). `maxHops` is 32 bits wide, which is R8's `MAX_HOPS < 2^CNT_W`;
`transform` is total, deterministic and stateless by its type, which is all R177 asks. -/
structure Params where
  maxHops : Count
  marker : List Byte
  rewrite : Nat → List Byte
  transform : List Byte → List Byte
  deriving Inhabited

/-- `MAX_HOPS`: OPEN (R7, D15, U1). No value is given, so nothing here knows one (log 9). -/
opaque Config.maxHops : Count

/-- `MARKER`: OPEN (R7, D15, U2; log 9). -/
opaque Config.marker : List Byte

/-- `REWRITE`: OPEN (R7, D15, U3; log 9). -/
opaque Config.rewrite : Nat → List Byte

/-- `TRANSFORM` in the reference behaviour: the identity (42_payload_transform.md R176; log 10).
A substituted one is the field of another record (R177). -/
def Config.transform (s : List Byte) : List Byte := s

/-- The block's own parameters: the three open ones and the default transform. -/
def Config.params : Params where
  maxHops := Config.maxHops
  marker := Config.marker
  rewrite := Config.rewrite
  transform := Config.transform

end Sys2Proof
end

