-- ==== Sys2Proof/WellFormed.lean ====
section
/-! DEFINITION. Which terms of `Instr` are instructions of the table: the byte conditions of the
rows (30_encoding.md R103) and the codes of the reserved row (R105). A row's condition on the STATE
is no matter of syntax; it stands in Machine/Flags.lean. -/

namespace Sys2Proof

/-- A header-length byte is legal exactly in [20, 30], bounds included (30_encoding.md R92, R99). -/
abbrev HeaderLengthLegal (b : Byte) : Prop :=
  Config.hlenMin ≤ b.toNat ∧ b.toNat ≤ Config.hlenMax

/-- The byte or code an instruction carries is one its row admits. -/
def Instr.wellFormed : Instr → Bool
  | .reset => true
  | .feed _ => true
  | .feedPreMatch => true
  | .feedPreDone => true
  | .feedPreMiss b => b != 0xAA
  | .feedHdrLenOk b => decide (HeaderLengthLegal b)
  | .feedHdrLenBad b => !decide (HeaderLengthLegal b)
  | .feedHdrBody _ => true
  | .feedHdrDone _ => true
  | .feedPayByte _ => true
  | .feedPayDone _ => true
  | .feedPayOvf _ => true
  | .feedCrcFirst _ => true
  | .feedCrcOvf _ => true
  | .feedCrcOk _ => true
  | .feedCrcBad _ => true
  | .decReset => true
  | .crc16 _ => true
  | .transform _ => true
  | .maybeForward _ => true
  | .maybeForwardFwd _ => true
  | .maybeForwardNone _ => true
  | .statsRead => true
  | .rxByte _ _ => true
  | .reserved op _ => decide (8 ≤ op.toNat)

end Sys2Proof
end

