-- ==== Sys2Proof/Decode.lean ====
section
/-! DEFINITION. Decoding of what the host presents, total, rejecting by name; the encoder written
from the same table (30_encoding.md R101, R102); and the mask and match of every row of
spec/opcode_table.json. -/

namespace Sys2Proof

/-- Why a word is no operation. -/
inductive DecodeError where
  /-- An operation without a byte operand is written with bits 7:0 zero (R102); a word that has the
  code of one and other bits there is matched by no row of the table. -/
  | byteBitsNotZero
  deriving DecidableEq, Repr

/-- Bits 11:8 of the word. -/
def opField (w : OpWord) : OpCode := w.extractLsb' 8 4

/-- Bits 7:0 of the word. -/
def byteField (w : OpWord) : Byte := w.extractLsb' 0 8

/-- The word of a code and a byte: `op[3:0]` followed by `b[7:0]` (R102). -/
def opWord (op : OpCode) (b : Byte) : OpWord := op ++ b

/-- A row of format OP, OP+SEQ or OP+MSG: mask 0xFFF, so bits 7:0 are zero (R102). -/
def decodeNoByte (w : OpWord) (i : Instr) : Except DecodeError Instr :=
  if byteField w = 0 then .ok i else .error .byteBitsNotZero

/-- The operation a request stands for (R101, R102). A word that several rows match decodes to the
generic row; the row the block's state selects is Machine/Flags.lean's (R103, log 7). -/
def decode (r : Request) : Except DecodeError Instr :=
  match (opField r.word).toNat with
  | 0 => decodeNoByte r.word .reset
  | 1 => .ok (.feed (byteField r.word))
  | 2 => decodeNoByte r.word .decReset
  | 3 => decodeNoByte r.word (.crc16 r.seq)
  | 4 => decodeNoByte r.word (.transform r.seq)
  | 5 => decodeNoByte r.word (.maybeForward ⟨r.seq, r.sig⟩)
  | 6 => decodeNoByte r.word .statsRead
  | 7 => .ok (.rxByte (byteField r.word) r.sig)
  | _ => .ok (.reserved (opField r.word) (byteField r.word))

/-- A request with a word and nothing beside it: the empty sequence, tokens zero. -/
def Request.ofWord (w : OpWord) : Request := ⟨w, [], default⟩

/-- The request that stands for an operation (R101, R102). -/
def encode : Instr → Request
  | .reset => .ofWord (opWord 0x0 0)
  | .feed b => .ofWord (opWord 0x1 b)
  | .feedPreMatch => .ofWord (opWord 0x1 0xAA)
  | .feedPreDone => .ofWord (opWord 0x1 0xAA)
  | .feedPreMiss b => .ofWord (opWord 0x1 b)
  | .feedHdrLenOk b => .ofWord (opWord 0x1 b)
  | .feedHdrLenBad b => .ofWord (opWord 0x1 b)
  | .feedHdrBody b => .ofWord (opWord 0x1 b)
  | .feedHdrDone b => .ofWord (opWord 0x1 b)
  | .feedPayByte b => .ofWord (opWord 0x1 b)
  | .feedPayDone b => .ofWord (opWord 0x1 b)
  | .feedPayOvf b => .ofWord (opWord 0x1 b)
  | .feedCrcFirst b => .ofWord (opWord 0x1 b)
  | .feedCrcOvf b => .ofWord (opWord 0x1 b)
  | .feedCrcOk b => .ofWord (opWord 0x1 b)
  | .feedCrcBad b => .ofWord (opWord 0x1 b)
  | .decReset => .ofWord (opWord 0x2 0)
  | .crc16 s => ⟨opWord 0x3 0, s, default⟩
  | .transform s => ⟨opWord 0x4 0, s, default⟩
  | .maybeForward m => ⟨opWord 0x5 0, m.content, m.signal⟩
  | .maybeForwardFwd m => ⟨opWord 0x5 0, m.content, m.signal⟩
  | .maybeForwardNone m => ⟨opWord 0x5 0, m.content, m.signal⟩
  | .statsRead => .ofWord (opWord 0x6 0)
  | .rxByte b g => ⟨opWord 0x7 b, [], g⟩
  | .reserved op b => .ofWord (opWord op b)

/-- The generic row of an operation: what its word decodes to (R102: the rows FEED.* partition
FEED, the rows MAYBE_FORWARD.* partition MAYBE_FORWARD; every other row is its own). -/
def Instr.generic : Instr → Instr
  | .reset => .reset
  | .feed b => .feed b
  | .feedPreMatch => .feed 0xAA
  | .feedPreDone => .feed 0xAA
  | .feedPreMiss b => .feed b
  | .feedHdrLenOk b => .feed b
  | .feedHdrLenBad b => .feed b
  | .feedHdrBody b => .feed b
  | .feedHdrDone b => .feed b
  | .feedPayByte b => .feed b
  | .feedPayDone b => .feed b
  | .feedPayOvf b => .feed b
  | .feedCrcFirst b => .feed b
  | .feedCrcOvf b => .feed b
  | .feedCrcOk b => .feed b
  | .feedCrcBad b => .feed b
  | .decReset => .decReset
  | .crc16 s => .crc16 s
  | .transform s => .transform s
  | .maybeForward m => .maybeForward m
  | .maybeForwardFwd m => .maybeForward m
  | .maybeForwardNone m => .maybeForward m
  | .statsRead => .statsRead
  | .rxByte b g => .rxByte b g
  | .reserved op b => .reserved op b

/-- The mask of the row, as spec/opcode_table.json gives it. -/
def Instr.rowMask : Instr → OpWord
  | .reset => 0xFFF
  | .feed _ => 0xF00
  | .feedPreMatch => 0xFFF
  | .feedPreDone => 0xFFF
  | .feedPreMiss _ => 0xF00
  | .feedHdrLenOk _ => 0xF00
  | .feedHdrLenBad _ => 0xF00
  | .feedHdrBody _ => 0xF00
  | .feedHdrDone _ => 0xF00
  | .feedPayByte _ => 0xF00
  | .feedPayDone _ => 0xF00
  | .feedPayOvf _ => 0xF00
  | .feedCrcFirst _ => 0xF00
  | .feedCrcOvf _ => 0xF00
  | .feedCrcOk _ => 0xF00
  | .feedCrcBad _ => 0xF00
  | .decReset => 0xFFF
  | .crc16 _ => 0xFFF
  | .transform _ => 0xFFF
  | .maybeForward _ => 0xFFF
  | .maybeForwardFwd _ => 0xFFF
  | .maybeForwardNone _ => 0xFFF
  | .statsRead => 0xFFF
  | .rxByte _ _ => 0xF00
  | .reserved _ _ => 0x800

/-- The match value of the row, as spec/opcode_table.json gives it. -/
def Instr.rowBits : Instr → OpWord
  | .reset => 0x000
  | .feed _ => 0x100
  | .feedPreMatch => 0x1AA
  | .feedPreDone => 0x1AA
  | .feedPreMiss _ => 0x100
  | .feedHdrLenOk _ => 0x100
  | .feedHdrLenBad _ => 0x100
  | .feedHdrBody _ => 0x100
  | .feedHdrDone _ => 0x100
  | .feedPayByte _ => 0x100
  | .feedPayDone _ => 0x100
  | .feedPayOvf _ => 0x100
  | .feedCrcFirst _ => 0x100
  | .feedCrcOvf _ => 0x100
  | .feedCrcOk _ => 0x100
  | .feedCrcBad _ => 0x100
  | .decReset => 0x200
  | .crc16 _ => 0x300
  | .transform _ => 0x400
  | .maybeForward _ => 0x500
  | .maybeForwardFwd _ => 0x500
  | .maybeForwardNone _ => 0x500
  | .statsRead => 0x600
  | .rxByte _ _ => 0x700
  | .reserved _ _ => 0x800

/-- The request whose word has the bits `w`, of which the table gives `nbits`; operands beside the
word are empty. -/
def tableRequest (nbits w : Nat) : Request :=
  .ofWord (BitVec.ofNat 12 (w % 2 ^ nbits))

/-- The instruction the decoder reads from a word numbered as spec/opcode_table.json numbers it. A
number that does not fit the 12 bits of an operation word (R102) is none. -/
def decodeTableWord (nbits w : Nat) : Option Instr :=
  if w % 2 ^ nbits < 2 ^ 12 then (decode (tableRequest nbits w)).toOption else none

end Sys2Proof
end

