-- ==== Sys2Proof/Machine/State.lean ====
section
/-! DEFINITION. The state of the block (10_state.md R20), the values its operations return, the
reasons a step can stop, and the state after RESET (R45). -/

namespace Sys2Proof.Machine

/-- PHASE: the decoder's four phases (R21). -/
inductive Phase where
  /-- S_PRE, WaitingForPreamble -/
  | pre
  /-- S_HDR, ReadingHeader -/
  | hdr
  /-- S_PAY, ReadingPayload -/
  | pay
  /-- S_CRC, ReadingCRC -/
  | crc
  deriving DecidableEq, Repr

/-- The three error kinds (60_exceptions.md R215). -/
inductive ErrorKind where
  | invalidHeaderLength
  | crcMismatch
  | bufferOverflow
  deriving DecidableEq, Repr

/-- The value carried by FrameReady (40_frame_decoder.md R138). -/
structure Frame where
  headerLength : Byte
  payloadLength : Half
  payload : List Byte
  crc : Half
  deriving DecidableEq, Repr

/-- The result of one FEED (R34, R120). -/
inductive DecoderEvent where
  | pending
  | frameReady (f : Frame)
  | error (k : ErrorKind)
  deriving DecidableEq, Repr

/-- What an operation returns (30_encoding.md R101, column output). -/
inductive Output where
  /-- RESET and DEC_RESET return nothing. -/
  | none
  /-- FEED -/
  | event (ev : DecoderEvent)
  /-- CRC16 -/
  | checksum (v : Half)
  /-- TRANSFORM -/
  | bytes (s : List Byte)
  /-- MAYBE_FORWARD: the OutgoingMessage, if one was made -/
  | outgoing (o : Option (List Byte))
  /-- STATS_READ: (RXC, FWC, CEC) -/
  | stats (rxc fwc cec : Count)
  /-- RX_BYTE -/
  | received (ev : DecoderEvent) (m : Option Message) (fwd : Option (List Byte))
  deriving DecidableEq, Repr

/-- The accumulation buffer's cells (20_memory.md R60): address and byte, addresses strictly
rising; a cell that is not listed holds no value (R23). -/
abbrev Memory := List Host.Cell

/-- The whole state. The first twelve fields are R20's; the last three are the model's own side of
the host interface (log 1, 2, 3). MPOS, LEN, HCNT, PCNT and TCNT are counts that only ever grow by
one or go to zero (R165); their ranges are part of `DecoderInv` (log 4). -/
structure State where
  /-- PHASE (R21) -/
  phase : Phase
  /-- MPOS, the match position (R22) -/
  mpos : Nat
  /-- LEN, the number of valid bytes in BUF (R24) -/
  len : Nat
  /-- BUF, the accumulation buffer (R23) -/
  buf : Memory
  /-- HLEN, the declared header length (R25) -/
  hlen : Byte
  /-- HCNT, header bytes in BUF (R26) -/
  hcnt : Nat
  /-- PLEN, the declared payload length (R27) -/
  plen : Half
  /-- PCNT, payload bytes in BUF (R28) -/
  pcnt : Nat
  /-- TCNT, trailer bytes in BUF (R29) -/
  tcnt : Nat
  /-- RXC, packets_received (R35) -/
  rxc : Count
  /-- FWC, packets_forwarded (R36) -/
  fwc : Count
  /-- CEC, crc_errors (R37) -/
  cec : Count
  /-- The operations the host will present, next one first (R3, R13; log 1). -/
  inbox : List Request
  /-- What the last operation returned (R3; log 2). -/
  out : Output
  /-- What was handed to the Radio Transport's send, oldest first (R202; log 3). -/
  sent : List (List Byte)
  deriving DecidableEq, Repr

/-- Why the machine stops with a fault. -/
inductive Fault where
  /-- Raised by a FEED (or RX_BYTE) that would read a buffer cell at or above LEN, or one with no
  value: R11 defines MemRead only below LEN. No state of R30 reaches it. Safe: the model stops
  where nothing is defined. -/
  | bufferCellHoldsNoValue
  deriving DecidableEq, Repr

/-- Why an operation has no meaning. -/
inductive Refusal where
  /-- An instruction that has no meaning yet; no arm answers so. Safe. -/
  | notModelled (mnemonic : String)
  /-- Raised by the row RESERVED: codes 0x8 to 0xF are refused (R105). Safe: it is what the spec
  says. -/
  | reservedOperation
  /-- Raised by `step` for a word no row of the table matches (R102; log 8). Safe: the spec gives
  such a word no meaning. -/
  | undefinedWord
  deriving DecidableEq, Repr

/-- The state after RESET (R45, R251), nothing presented, returned or sent yet (log 1, 2, 3). -/
def State.reset : State where
  phase := .pre
  mpos := 0
  len := 0
  buf := []
  hlen := 0
  hcnt := 0
  plen := 0
  pcnt := 0
  tcnt := 0
  rxc := 0
  fwc := 0
  cec := 0
  inbox := []
  out := .none
  sent := []

end Sys2Proof.Machine
end

