-- ==== Sys2Proof/Machine/Ops.lean ====
section
/-! DEFINITION. The named operations over the buffer and the registers: cells of BUF
(20_memory.md), BufAppend (R62), MemRead (R11, R63), FullReset (40_frame_decoder.md R121), sat_inc
(R38), taking an error event (60_exceptions.md R222), and the hand-over to send (R202). There is no
return operation (R225). -/

namespace Sys2Proof.Machine

/-- What an unlisted cell reads as: no value (R23). -/
def Memory.unlisted : Option Byte := none

/-- One byte of BUF; a cell that is not listed holds no value. -/
def Memory.read : Memory → Nat → Option Byte
  | [], _ => Memory.unlisted
  | c :: rest, a => if c.1 = a then some c.2 else Memory.read rest a

/-- Store one byte, keeping the addresses strictly rising. -/
def Memory.write : Memory → Nat → Byte → Memory
  | [], a, v => [(a, v)]
  | c :: rest, a, v =>
    if a < c.1 then (a, v) :: c :: rest
    else if c.1 = a then (a, v) :: rest
    else c :: Memory.write rest a v

/-- The `n` bytes from index `a` on, if every one of the cells holds a value. -/
def Memory.readSeq (m : Memory) : Nat → Nat → Option (List Byte)
  | _, 0 => some []
  | a, n + 1 =>
    match m.read a, m.readSeq (a + 1) n with
    | some v, some vs => some (v :: vs)
    | _, _ => none

/-- The addresses rise strictly. -/
def Memory.rising : Memory → Bool
  | [] => true
  | [_] => true
  | c :: d :: rest => decide (c.1 < d.1) && Memory.rising (d :: rest)

/-- The canonical form of BUF: addresses strictly rising, all inside the address space of `CAP`
cells (R60). No byte is what an unlisted cell reads as, so no listed cell is redundant. -/
def Memory.wf (m : Memory) : Bool :=
  m.rising && m.all (fun c => decide (c.1 < Config.cap))

/-- The buffer that holds exactly the bytes `xs`, at indices 0, 1, ... (R23: BUF is the sequence of
its first LEN bytes). -/
def Memory.ofBytes (xs : List Byte) : Memory := (List.range xs.length).zip xs

/-- `MemRead` of one byte: defined only below LEN (R11, R63). -/
def memByte (s : State) (i : Nat) : Option Byte :=
  if i < s.len then s.buf.read i else none

/-- The bytes BUF[i .. i + n): defined only when i + n <= LEN (R11, R63). -/
def memSlice (s : State) (i n : Nat) : Option (List Byte) :=
  if i + n ≤ s.len then s.buf.readSeq i n else none

/-- Store a byte at index LEN and count it (the effect of `BufAppend` when there is room, R62). -/
def State.store (b : Byte) (s : State) : State :=
  { s with buf := s.buf.write s.len b, len := s.len + 1 }

/-- `BufAppend(v)` (R62): bounds-checked on every write; `none` says that BufferOverflow is to be
raised. The spec tests LEN = CAP; LEN never exceeds CAP (R24), and a state that did would overflow
too, so that no cell at CAP or beyond is ever written (R218; DEDUCED, safe, log 13). -/
def bufAppend (b : Byte) (s : State) : Option State :=
  if Config.cap ≤ s.len then none else some (s.store b)

/-- `FullReset()` (40_frame_decoder.md R121): the decoder's registers and the buffer, no counter. -/
def State.fullReset (s : State) : State :=
  { s with phase := .pre, mpos := 0, len := 0, buf := [], hlen := 0, hcnt := 0, plen := 0,
           pcnt := 0, tcnt := 0 }

/-- The match restart of R125 and R250: MPOS and LEN to 0, the partial preamble dropped. -/
def State.restartMatch (s : State) : State :=
  { s with mpos := 0, len := 0, buf := [] }

/-- The three counters to 0 (R195). -/
def State.clearCounters (s : State) : State :=
  { s with rxc := 0, fwc := 0, cec := 0 }

/-- `sat_inc(c)` (R11, R38). -/
def satInc (c : Count) : Count :=
  if c = BitVec.allOnes 32 then c else c + 1

/-- RXC counts a delivered frame (R35). -/
def State.countReceived (s : State) : State := { s with rxc := satInc s.rxc }

/-- CEC counts a CRC mismatch (R37). -/
def State.countCrcError (s : State) : State := { s with cec := satInc s.cec }

/-- FWC counts a forward (R36, R182). -/
def State.countForward (s : State) : State := { s with fwc := s.fwc + 1 }

/-- `send(out)`: handed to the Radio Transport; its result is ignored (R184, R202). -/
def State.handToSend (o : List Byte) (s : State) : State := { s with sent := s.sent ++ [o] }

/-- The operation's output (R3). -/
def State.returning (o : Output) (s : State) : State := { s with out := o }

/-- What a FEED comes to: the state it leaves and its one event (R34), or a read R11 leaves
undefined. -/
abbrev Fed := Except Fault (State × DecoderEvent)

/-- `raise E`, the entry of every error (60_exceptions.md R222): only CrcMismatch counts, then the
full reset, and the event is Error(E). Nothing is saved. -/
def raiseError : ErrorKind → State → State × DecoderEvent
  | .crcMismatch, s => (s.countCrcError.fullReset, .error .crcMismatch)
  | .invalidHeaderLength, s => (s.fullReset, .error .invalidHeaderLength)
  | .bufferOverflow, s => (s.fullReset, .error .bufferOverflow)

/-- `BufAppend(b)` and then the rest of the rule, which does not run when the append raises
(R11, R62, R222). -/
def afterAppend (b : Byte) (s : State) (rest : State → Fed) : Fed :=
  match bufAppend b s with
  | none => .ok (raiseError .bufferOverflow s)
  | some t => rest t

/-- A FEED's event becomes the operation's output. -/
def feedOutcome : Fed → Host.Outcome State Fault Refusal
  | .ok r => .next (r.1.returning (.event r.2))
  | .error f => .fault f

end Sys2Proof.Machine
end

