-- ==== Sys2Proof/Machine/Operands.lean ====
section
/-! DEFINITION. The operand forms and the codes of values: `be16` (00_scope.md R10, 20_memory.md
R65), the 16-bit read of BUF (R63), `starts_with` (R10), the 2-bit codes of PHASE (30_encoding.md
R104) and of events (R106). -/

namespace Sys2Proof.Machine

/-- `be16(hi, lo)`: the first byte is the more significant (R10). -/
def be16 (hi lo : Byte) : Half := (hi.setWidth 16 <<< 8) ||| lo.setWidth 16

/-- Bits 15:8 of a 16-bit value. -/
def hiByte (v : Half) : Byte := v.extractLsb' 8 8

/-- Bits 7:0 of a 16-bit value. -/
def loByte (v : Half) : Byte := v.extractLsb' 0 8

/-- `MemRead(i, 2)`: two byte reads combined by `be16` (R65, R70). -/
def memHalf (s : State) (i : Nat) : Option Half :=
  match memByte s i, memByte s (i + 1) with
  | some hi, some lo => some (be16 hi lo)
  | _, _ => none

/-- `starts_with(s, p)` (R10): exact comparison of bytes; every sequence starts with []. -/
abbrev StartsWith (s p : List Byte) : Prop :=
  p.length ≤ s.length ∧ s.take p.length = p

/-- The 2-bit code of PHASE (R104). -/
def Phase.code : Phase → BitVec 2
  | .pre => 0
  | .hdr => 1
  | .pay => 2
  | .crc => 3

/-- The field `err` of an event: the code of the error kind (R106, R215). -/
def ErrorKind.code : ErrorKind → BitVec 2
  | .invalidHeaderLength => 1
  | .crcMismatch => 2
  | .bufferOverflow => 3

/-- The fields (`ev`, `err`) of an event (R106); `ev` = 3 is never produced. -/
def DecoderEvent.code : DecoderEvent → BitVec 2 × BitVec 2
  | .pending => (0, 0)
  | .frameReady _ => (1, 0)
  | .error k => (2, k.code)

end Sys2Proof.Machine
end

