-- ==== Sys2Proof/Machine/Crc.lean ====
section
/-! DEFINITION. The CRC Engine (41_crc_engine.md): the algorithm R160 to R164, its equivalent forms
R168 and R169, and the operation CRC16 (R171). -/

namespace Sys2Proof.Machine

/-- The shift step (R163): the tested bit is bit 0 before the shift; the shift is logical. -/
def crcShift (reg : Half) : Half :=
  if reg.getLsbD 0 then (reg >>> 1) ^^^ Config.crcPolyR else reg >>> 1

/-- The byte step (R162): the byte into bits 7:0, then eight shift steps. -/
def crcByte (reg : Half) (b : Byte) : Half :=
  crcShift (crcShift (crcShift (crcShift (crcShift (crcShift (crcShift (crcShift
    (reg ^^^ b.setWidth 16))))))))

/-- The register run over a sequence, first byte first (R160, R170). -/
def crcFold (reg : Half) (s : List Byte) : Half := s.foldl crcByte reg

/-- `crc16(s)` (R160): from `CRC_INIT` (R161), returned unchanged (R164). -/
def crc16 (s : List Byte) : Half := crcFold Config.crcInit s

/-- One step of the bit-serial form (R168): bit `k` of the byte meets bit 0 of the register. -/
def crcSerialStep (b : Byte) (reg : Half) (k : Nat) : Half :=
  if (reg.getLsbD 0 ^^ b.getLsbD k) then (reg >>> 1) ^^^ Config.crcPolyR else reg >>> 1

/-- The bit-serial form of the byte step (R168), bits taken least significant first. -/
def crcByteSerial (reg : Half) (b : Byte) : Half :=
  (List.range 8).foldl (crcSerialStep b) reg

/-- The table of R169: `T[i] = crc_byte(0x0000, i)`. -/
def crcTable (i : Byte) : Half := crcByte 0 i

/-- The table form of the byte step (R169). -/
def crcByteByTable (reg : Half) (b : Byte) : Half :=
  (reg >>> 8) ^^^ crcTable (loByte (reg ^^^ b.setWidth 16))

/-- CRC16 (R171): a pure function of its operand; reads and writes no state of the block. -/
def execCrc16 (x : List Byte) (s : State) : Host.Outcome State Fault Refusal :=
  .next (s.returning (.checksum (crc16 x)))

end Sys2Proof.Machine
end

