-- ==== Sys2Proof/Machine/Flags.lean ====
section
/-! DEFINITION. The block has no status flags and no condition codes (10_state.md R34). What stands
here is what its rules test: the conditions on state and byte by which a FEED.* row of the table is
selected (30_encoding.md R103), written without natural subtraction, and the decision of the
Forward Controller (43_forward_controller.md R181). -/

namespace Sys2Proof.Machine

/-- Row FEED.PRE.MATCH (R103, R123). -/
abbrev SelPreMatch (s : State) (b : Byte) : Prop := s.phase = .pre ∧ s.mpos ≤ 6 ∧ b = 0xAA

/-- Row FEED.PRE.DONE (R103, R124). -/
abbrev SelPreDone (s : State) (b : Byte) : Prop := s.phase = .pre ∧ s.mpos = 7 ∧ b = 0xAA

/-- Row FEED.PRE.MISS (R103, R125). -/
abbrev SelPreMiss (s : State) (b : Byte) : Prop := s.phase = .pre ∧ b ≠ 0xAA

/-- Row FEED.HDR.LEN_OK (R103, R126). -/
abbrev SelHdrLenOk (s : State) (b : Byte) : Prop :=
  s.phase = .hdr ∧ s.hcnt = 0 ∧ HeaderLengthLegal b

/-- Row FEED.HDR.LEN_BAD (R103, R127). -/
abbrev SelHdrLenBad (s : State) (b : Byte) : Prop :=
  s.phase = .hdr ∧ s.hcnt = 0 ∧ ¬ HeaderLengthLegal b

/-- Row FEED.HDR.BODY: 1 <= HCNT <= HLEN - 2 (R103, R128). -/
abbrev SelHdrBody (s : State) : Prop :=
  s.phase = .hdr ∧ 1 ≤ s.hcnt ∧ s.hcnt + 2 ≤ s.hlen.toNat

/-- Row FEED.HDR.DONE: HCNT = HLEN - 1 (R103, R129). HCNT is at least 1 there, since HLEN is at
least 20 once a header has begun. -/
abbrev SelHdrDone (s : State) : Prop :=
  s.phase = .hdr ∧ 1 ≤ s.hcnt ∧ s.hcnt + 1 = s.hlen.toNat

/-- Row FEED.PAY.BYTE: PCNT <= PLEN - 2 (R103, R130). -/
abbrev SelPayByte (s : State) : Prop :=
  s.phase = .pay ∧ s.len < Config.cap ∧ s.pcnt + 2 ≤ s.plen.toNat

/-- Row FEED.PAY.DONE: PCNT = PLEN - 1 (R103, R131). -/
abbrev SelPayDone (s : State) : Prop :=
  s.phase = .pay ∧ s.len < Config.cap ∧ s.pcnt + 1 = s.plen.toNat

/-- Row FEED.PAY.OVF (R103, R132). -/
abbrev SelPayOvf (s : State) : Prop := s.phase = .pay ∧ s.len = Config.cap

/-- Row FEED.CRC.FIRST (R103, R133). -/
abbrev SelCrcFirst (s : State) : Prop :=
  s.phase = .crc ∧ s.len < Config.cap ∧ s.tcnt = 0

/-- Row FEED.CRC.OVF (R103, R134). -/
abbrev SelCrcOvf (s : State) : Prop := s.phase = .crc ∧ s.len = Config.cap

/-- Whether the trailer with second byte `b` matches: be16(BUF[LEN-1], b) = crc16(BUF[0 .. LEN-1)),
LEN taken before the append (R103). `none` when a cell it reads holds no value. -/
def trailerMatches (s : State) (b : Byte) : Option Bool :=
  match memByte s (s.len - 1), memSlice s 0 (s.len - 1) with
  | some hi, some body => some (decide (be16 hi b = crc16 body))
  | _, _ => none

/-- Row FEED.CRC.OK (R103, R135). -/
abbrev SelCrcOk (s : State) (b : Byte) : Prop :=
  s.phase = .crc ∧ s.len < Config.cap ∧ s.tcnt = 1 ∧ trailerMatches s b = some true

/-- Row FEED.CRC.BAD (R103, R136). -/
abbrev SelCrcBad (s : State) (b : Byte) : Prop :=
  s.phase = .crc ∧ s.len < Config.cap ∧ s.tcnt = 1 ∧ trailerMatches s b = some false

/-- The fourteen conditions in the table's order; R103 says exactly one holds. -/
def feedRows (s : State) (b : Byte) : List Bool :=
  [decide (SelPreMatch s b), decide (SelPreDone s b), decide (SelPreMiss s b),
   decide (SelHdrLenOk s b), decide (SelHdrLenBad s b), decide (SelHdrBody s),
   decide (SelHdrDone s), decide (SelPayByte s), decide (SelPayDone s), decide (SelPayOvf s),
   decide (SelCrcFirst s), decide (SelCrcOvf s), decide (SelCrcOk s b), decide (SelCrcBad s b)]

/-- `forward_ok(m)` (R181): both parts on the state before the operation, the comparison unsigned. -/
abbrev ForwardOk (p : Params) (s : State) (m : Message) : Prop :=
  StartsWith m.content p.marker ∧ s.fwc < p.maxHops

end Sys2Proof.Machine
end

