-- ==== Sys2Proof/Machine/Feed.lean ====
section
/-! DEFINITION. The Frame Decoder (40_frame_decoder.md): the operation FEED as the listing R139, and
the fourteen rules R123 to R136, each written from its own pseudocode. A FEED.* row of the table is
the FEED of its byte when its condition holds; when it does not, the word selects another row
(R102, R122), and the meaning of that word in that state is FEED's (log 7). -/

namespace Sys2Proof.Machine

/-- Both trailer bytes are in BUF: compare, then deliver or raise (R135, R136, R139). LEN is the
length of the whole frame here. -/
def judgeTrailer (s : State) : Fed :=
  match memHalf s (s.len - 2), memSlice s 0 (s.len - 2) with
  | some rx, some body =>
    if rx = crc16 body then
      match memSlice s (Config.preLen + s.hlen.toNat) s.plen.toNat with
      | some payload => .ok (s.countReceived.fullReset, .frameReady ⟨s.hlen, s.plen, payload, rx⟩)
      | none => .error .bufferCellHoldsNoValue
    else .ok (raiseError .crcMismatch s)
  | _, _ => .error .bufferCellHoldsNoValue

/-- The header is complete: PLEN from header offsets 2 and 3, an empty payload skips S_PAY (R129). -/
def headerComplete (s : State) : Fed :=
  match memHalf s (Config.preLen + Config.plenOff) with
  | some p => .ok ({ s with plen := p, phase := if p = 0 then .crc else .pay }, .pending)
  | none => .error .bufferCellHoldsNoValue

/-- FEED in S_PRE (R139). -/
def feedPre (b : Byte) (s : State) : Fed :=
  if Config.preamble[s.mpos]? = some b then
    afterAppend b s fun t =>
      if t.mpos + 1 = Config.preLen then .ok ({ t with mpos := 0, phase := .hdr }, .pending)
      else .ok ({ t with mpos := t.mpos + 1 }, .pending)
  else .ok (s.restartMatch, .pending)

/-- FEED in S_HDR (R139). -/
def feedHdr (b : Byte) (s : State) : Fed :=
  if s.hcnt = 0 then
    if b.toNat < Config.hlenMin ∨ Config.hlenMax < b.toNat then
      .ok (raiseError .invalidHeaderLength s)
    else afterAppend b { s with hlen := b } fun t => .ok ({ t with hcnt := 1 }, .pending)
  else
    afterAppend b s fun t =>
      if t.hcnt + 1 = t.hlen.toNat then headerComplete { t with hcnt := t.hcnt + 1 }
      else .ok ({ t with hcnt := t.hcnt + 1 }, .pending)

/-- FEED in S_PAY (R139). -/
def feedPay (b : Byte) (s : State) : Fed :=
  afterAppend b s fun t =>
    if t.pcnt + 1 = t.plen.toNat then .ok ({ t with pcnt := t.pcnt + 1, phase := .crc }, .pending)
    else .ok ({ t with pcnt := t.pcnt + 1 }, .pending)

/-- FEED in S_CRC (R139). -/
def feedCrc (b : Byte) (s : State) : Fed :=
  afterAppend b s fun t =>
    if t.tcnt + 1 < Config.trlLen then .ok ({ t with tcnt := t.tcnt + 1 }, .pending)
    else judgeTrailer { t with tcnt := t.tcnt + 1 }

/-- The whole of FEED (R139): the phase the register holds when it begins handles the byte (R122). -/
def feed (b : Byte) (s : State) : Fed :=
  match s.phase with
  | .pre => feedPre b s
  | .hdr => feedHdr b s
  | .pay => feedPay b s
  | .crc => feedCrc b s

/-- R123. -/
def rulePreMatch (b : Byte) (s : State) : Fed :=
  afterAppend b s fun t => .ok ({ t with mpos := t.mpos + 1 }, .pending)

/-- R124. -/
def rulePreDone (b : Byte) (s : State) : Fed :=
  afterAppend b s fun t => .ok ({ t with mpos := 0, phase := .hdr }, .pending)

/-- R125. -/
def rulePreMiss (s : State) : Fed := .ok (s.restartMatch, .pending)

/-- R126. -/
def ruleHdrLenOk (b : Byte) (s : State) : Fed :=
  afterAppend b { s with hlen := b } fun t => .ok ({ t with hcnt := 1 }, .pending)

/-- R127. -/
def ruleHdrLenBad (s : State) : Fed := .ok (raiseError .invalidHeaderLength s)

/-- R128. -/
def ruleHdrBody (b : Byte) (s : State) : Fed :=
  afterAppend b s fun t => .ok ({ t with hcnt := t.hcnt + 1 }, .pending)

/-- R129. -/
def ruleHdrDone (b : Byte) (s : State) : Fed :=
  afterAppend b s fun t => headerComplete { t with hcnt := t.hcnt + 1 }

/-- R130. -/
def rulePayByte (b : Byte) (s : State) : Fed :=
  afterAppend b s fun t => .ok ({ t with pcnt := t.pcnt + 1 }, .pending)

/-- R131. -/
def rulePayDone (b : Byte) (s : State) : Fed :=
  afterAppend b s fun t => .ok ({ t with pcnt := t.pcnt + 1, phase := .crc }, .pending)

/-- R132 and R134: the append raises. -/
def ruleOverflow (s : State) : Fed := .ok (raiseError .bufferOverflow s)

/-- R133. -/
def ruleCrcFirst (b : Byte) (s : State) : Fed :=
  afterAppend b s fun t => .ok ({ t with tcnt := 1 }, .pending)

/-- R135: the frame is built before the full reset clears the buffer (R138). -/
def ruleCrcOk (b : Byte) (s : State) : Fed :=
  afterAppend b s fun t =>
    match memHalf t (t.len - 2), memSlice t (Config.preLen + t.hlen.toNat) t.plen.toNat with
    | some rx, some payload =>
      .ok (t.countReceived.fullReset, .frameReady ⟨t.hlen, t.plen, payload, rx⟩)
    | _, _ => .error .bufferCellHoldsNoValue

/-- R136. -/
def ruleCrcBad (b : Byte) (s : State) : Fed :=
  afterAppend b s fun t => .ok (raiseError .crcMismatch { t with tcnt := 2 })

/-- A FEED.* row: its own rule when the row is selected, the FEED of the same byte when not. -/
def rowOrFeed (selected : Bool) (rule : Fed) (b : Byte) (s : State) :
    Host.Outcome State Fault Refusal :=
  feedOutcome (if selected then rule else feed b s)

/-- FEED (R120, R139). -/
def execFeed (b : Byte) (s : State) : Host.Outcome State Fault Refusal :=
  feedOutcome (feed b s)

/-- FEED.PRE.MATCH (R123). -/
def execFeedPreMatch (s : State) : Host.Outcome State Fault Refusal :=
  rowOrFeed (decide (SelPreMatch s 0xAA)) (rulePreMatch 0xAA s) 0xAA s

/-- FEED.PRE.DONE (R124). -/
def execFeedPreDone (s : State) : Host.Outcome State Fault Refusal :=
  rowOrFeed (decide (SelPreDone s 0xAA)) (rulePreDone 0xAA s) 0xAA s

/-- FEED.PRE.MISS (R125). -/
def execFeedPreMiss (b : Byte) (s : State) : Host.Outcome State Fault Refusal :=
  rowOrFeed (decide (SelPreMiss s b)) (rulePreMiss s) b s

/-- FEED.HDR.LEN_OK (R126). -/
def execFeedHdrLenOk (b : Byte) (s : State) : Host.Outcome State Fault Refusal :=
  rowOrFeed (decide (SelHdrLenOk s b)) (ruleHdrLenOk b s) b s

/-- FEED.HDR.LEN_BAD (R127). -/
def execFeedHdrLenBad (b : Byte) (s : State) : Host.Outcome State Fault Refusal :=
  rowOrFeed (decide (SelHdrLenBad s b)) (ruleHdrLenBad s) b s

/-- FEED.HDR.BODY (R128). -/
def execFeedHdrBody (b : Byte) (s : State) : Host.Outcome State Fault Refusal :=
  rowOrFeed (decide (SelHdrBody s)) (ruleHdrBody b s) b s

/-- FEED.HDR.DONE (R129). -/
def execFeedHdrDone (b : Byte) (s : State) : Host.Outcome State Fault Refusal :=
  rowOrFeed (decide (SelHdrDone s)) (ruleHdrDone b s) b s

/-- FEED.PAY.BYTE (R130). -/
def execFeedPayByte (b : Byte) (s : State) : Host.Outcome State Fault Refusal :=
  rowOrFeed (decide (SelPayByte s)) (rulePayByte b s) b s

/-- FEED.PAY.DONE (R131). -/
def execFeedPayDone (b : Byte) (s : State) : Host.Outcome State Fault Refusal :=
  rowOrFeed (decide (SelPayDone s)) (rulePayDone b s) b s

/-- FEED.PAY.OVF (R132). -/
def execFeedPayOvf (b : Byte) (s : State) : Host.Outcome State Fault Refusal :=
  rowOrFeed (decide (SelPayOvf s)) (ruleOverflow s) b s

/-- FEED.CRC.FIRST (R133). -/
def execFeedCrcFirst (b : Byte) (s : State) : Host.Outcome State Fault Refusal :=
  rowOrFeed (decide (SelCrcFirst s)) (ruleCrcFirst b s) b s

/-- FEED.CRC.OVF (R134). -/
def execFeedCrcOvf (b : Byte) (s : State) : Host.Outcome State Fault Refusal :=
  rowOrFeed (decide (SelCrcOvf s)) (ruleOverflow s) b s

/-- FEED.CRC.OK (R135). -/
def execFeedCrcOk (b : Byte) (s : State) : Host.Outcome State Fault Refusal :=
  rowOrFeed (decide (SelCrcOk s b)) (ruleCrcOk b s) b s

/-- FEED.CRC.BAD (R136). -/
def execFeedCrcBad (b : Byte) (s : State) : Host.Outcome State Fault Refusal :=
  rowOrFeed (decide (SelCrcBad s b)) (ruleCrcBad b s) b s

end Sys2Proof.Machine
end

