-- ==== Sys2Proof/Machine/Forward.lean ====
section
/-! DEFINITION. The Payload Transform (42_payload_transform.md) and the Forward Controller
(43_forward_controller.md), over any configuration record, and the operations TRANSFORM and
MAYBE_FORWARD with its two rows, at the block's own record. -/

namespace Sys2Proof.Machine

/-- The hop number (R185): the value FWC has after the increment. -/
def hopNumber (s : State) : Nat := s.fwc.toNat + 1

/-- The constructed content (R186): the rewritten marker, then the whole original content. -/
def outgoing (p : Params) (s : State) (m : Message) : List Byte :=
  p.rewrite (hopNumber s) ++ m.content

/-- The forwarding case (R182): construct, increment, send, and return what was sent. -/
def forwardCase (p : Params) (m : Message) (s : State) : State × Option (List Byte) :=
  (s.countForward.handToSend (outgoing p s m), some (outgoing p s m))

/-- The non-forwarding case (R183): nothing happens. -/
def noForwardCase (s : State) : State × Option (List Byte) := (s, none)

/-- MAYBE_FORWARD (R180 to R183). The signal metrics play no part (R188). -/
def maybeForward (p : Params) (m : Message) (s : State) : State × Option (List Byte) :=
  if ForwardOk p s m then forwardCase p m s else noForwardCase s

/-- The forward's result becomes the operation's output. -/
def forwardOutcome (r : State × Option (List Byte)) : State := r.1.returning (.outgoing r.2)

/-- A MAYBE_FORWARD.* row: its own case when the row is selected, the other row's when not
(R102, R180; log 7). -/
def rowOrForward (selected : Bool) (row : State × Option (List Byte)) (p : Params) (m : Message)
    (s : State) : State :=
  forwardOutcome (if selected then row else maybeForward p m s)

/-- TRANSFORM over any record (R175): the stage the record plugs in (R177); reads and writes no
state. -/
def transformBy (p : Params) (x : List Byte) (s : State) : Host.Outcome State Fault Refusal :=
  .next (s.returning (.bytes (p.transform x)))

/-- MAYBE_FORWARD over any record (R180). -/
def maybeForwardBy (p : Params) (m : Message) (s : State) : Host.Outcome State Fault Refusal :=
  .next (forwardOutcome (maybeForward p m s))

/-- MAYBE_FORWARD.FWD over any record (R182). -/
def forwardRowBy (p : Params) (m : Message) (s : State) : Host.Outcome State Fault Refusal :=
  .next (rowOrForward (decide (ForwardOk p s m)) (forwardCase p m s) p m s)

/-- MAYBE_FORWARD.NONE over any record (R183). -/
def noForwardRowBy (p : Params) (m : Message) (s : State) : Host.Outcome State Fault Refusal :=
  .next (rowOrForward (!decide (ForwardOk p s m)) (noForwardCase s) p m s)

/-- TRANSFORM (R175) with the block's own record. -/
def execTransform (x : List Byte) (s : State) : Host.Outcome State Fault Refusal :=
  transformBy Config.params x s

/-- MAYBE_FORWARD (R180) with the block's own record. -/
def execMaybeForward (m : Message) (s : State) : Host.Outcome State Fault Refusal :=
  maybeForwardBy Config.params m s

/-- MAYBE_FORWARD.FWD (R182) with the block's own record. -/
def execMaybeForwardFwd (m : Message) (s : State) : Host.Outcome State Fault Refusal :=
  forwardRowBy Config.params m s

/-- MAYBE_FORWARD.NONE (R183) with the block's own record. -/
def execMaybeForwardNone (m : Message) (s : State) : Host.Outcome State Fault Refusal :=
  noForwardRowBy Config.params m s

end Sys2Proof.Machine
end

