-- ==== Sys2Proof/Machine/System.lean ====
section
/-! DEFINITION. The system operations and the receive pipeline (44_system_and_host.md), and the
refusal of the reserved codes (30_encoding.md R105). -/

namespace Sys2Proof.Machine

/-- RESET (R195): the full reset and the three counters. -/
def execReset (s : State) : Host.Outcome State Fault Refusal :=
  .next (s.fullReset.clearCounters.returning .none)

/-- DEC_RESET (R196): the full reset, no event, no counter. -/
def execDecReset (s : State) : Host.Outcome State Fault Refusal :=
  .next (s.fullReset.returning .none)

/-- STATS_READ (R197): the counters as they stand; reading does not clear. -/
def execStatsRead (s : State) : Host.Outcome State Fault Refusal :=
  .next (s.returning (.stats s.rxc s.fwc s.cec))

/-- What RX_BYTE does with the event of its FEED (R198): a delivered frame's payload is transformed
once (R178), becomes a Message with the metrics given (R199), and meets the Forward Controller;
any other event ends the operation. -/
def deliver (p : Params) (g : Sig) (r : State × DecoderEvent) : State :=
  match r.2 with
  | .frameReady f =>
    let m : Message := ⟨p.transform f.payload, g⟩
    let fwd := maybeForward p m r.1
    fwd.1.returning (.received r.2 (some m) fwd.2)
  | .pending => r.1.returning (.received r.2 none none)
  | .error _ => r.1.returning (.received r.2 none none)

/-- RX_BYTE over any configuration record (R198). -/
def receiveByte (p : Params) (b : Byte) (g : Sig) (s : State) :
    Host.Outcome State Fault Refusal :=
  match feed b s with
  | .ok r => .next (deliver p g r)
  | .error f => .fault f

/-- RX_BYTE (R198). -/
def execRxByte (b : Byte) (g : Sig) (s : State) : Host.Outcome State Fault Refusal :=
  receiveByte Config.params b g s

/-- RESERVED (R105): refused; no state change, no output. -/
def execReserved (_op : OpCode) (_b : Byte) (_s : State) : Host.Outcome State Fault Refusal :=
  .refused .reservedOperation

end Sys2Proof.Machine
end

