-- ==== Sys2Proof/Machine/Dispatch.lean ====
section
/-! DEFINITION. exec: one arm per constructor of Instr. -/

namespace Sys2Proof.Machine

def exec (i : Instr) (s : State) : Host.Outcome State Fault Refusal :=
  match i with
  | .reset => Sys2Proof.Machine.execReset s
  | .feed b => Sys2Proof.Machine.execFeed b s
  | .feedPreMatch => Sys2Proof.Machine.execFeedPreMatch s
  | .feedPreDone => Sys2Proof.Machine.execFeedPreDone s
  | .feedPreMiss b => Sys2Proof.Machine.execFeedPreMiss b s
  | .feedHdrLenOk b => Sys2Proof.Machine.execFeedHdrLenOk b s
  | .feedHdrLenBad b => Sys2Proof.Machine.execFeedHdrLenBad b s
  | .feedHdrBody b => Sys2Proof.Machine.execFeedHdrBody b s
  | .feedHdrDone b => Sys2Proof.Machine.execFeedHdrDone b s
  | .feedPayByte b => Sys2Proof.Machine.execFeedPayByte b s
  | .feedPayDone b => Sys2Proof.Machine.execFeedPayDone b s
  | .feedPayOvf b => Sys2Proof.Machine.execFeedPayOvf b s
  | .feedCrcFirst b => Sys2Proof.Machine.execFeedCrcFirst b s
  | .feedCrcOvf b => Sys2Proof.Machine.execFeedCrcOvf b s
  | .feedCrcOk b => Sys2Proof.Machine.execFeedCrcOk b s
  | .feedCrcBad b => Sys2Proof.Machine.execFeedCrcBad b s
  | .decReset => Sys2Proof.Machine.execDecReset s
  | .crc16 x => Sys2Proof.Machine.execCrc16 x s
  | .transform x => Sys2Proof.Machine.execTransform x s
  | .maybeForward m => Sys2Proof.Machine.execMaybeForward m s
  | .maybeForwardFwd m => Sys2Proof.Machine.execMaybeForwardFwd m s
  | .maybeForwardNone m => Sys2Proof.Machine.execMaybeForwardNone m s
  | .statsRead => Sys2Proof.Machine.execStatsRead s
  | .rxByte b g => Sys2Proof.Machine.execRxByte b g s
  | .reserved op b => Sys2Proof.Machine.execReserved op b s

end Sys2Proof.Machine
end

