-- ==== Sys2Proof/Machine/Plugged.lean ====
section
/-! DEFINITION. The block over any configuration record: MAX_HOPS, MARKER, REWRITE and TRANSFORM as
named arguments of the model (00_scope.md R7, 42_payload_transform.md R177,
93_implementation_defined.md U1 to U4), and how one presented operation is taken. -/

namespace Sys2Proof.Machine

/-- An operation under the record `p` the host fixed (R254). Only TRANSFORM, MAYBE_FORWARD with its
two rows and RX_BYTE read the record; no FEED does (R177). `exec` is this at the block's own record,
whose transform is the default, the identity (R176; log 10). -/
def execWith (p : Params) (i : Instr) (s : State) : Host.Outcome State Fault Refusal :=
  match i with
  | .reset => execReset s
  | .feed b => execFeed b s
  | .feedPreMatch => execFeedPreMatch s
  | .feedPreDone => execFeedPreDone s
  | .feedPreMiss b => execFeedPreMiss b s
  | .feedHdrLenOk b => execFeedHdrLenOk b s
  | .feedHdrLenBad b => execFeedHdrLenBad b s
  | .feedHdrBody b => execFeedHdrBody b s
  | .feedHdrDone b => execFeedHdrDone b s
  | .feedPayByte b => execFeedPayByte b s
  | .feedPayDone b => execFeedPayDone b s
  | .feedPayOvf b => execFeedPayOvf b s
  | .feedCrcFirst b => execFeedCrcFirst b s
  | .feedCrcOvf b => execFeedCrcOvf b s
  | .feedCrcOk b => execFeedCrcOk b s
  | .feedCrcBad b => execFeedCrcBad b s
  | .decReset => execDecReset s
  | .crc16 x => execCrc16 x s
  | .transform x => transformBy p x s
  | .maybeForward m => maybeForwardBy p m s
  | .maybeForwardFwd m => forwardRowBy p m s
  | .maybeForwardNone m => noForwardRowBy p m s
  | .statsRead => execStatsRead s
  | .rxByte b g => receiveByte p b g s
  | .reserved op b => execReserved op b s

/-- Take the next operation presented, decode it, perform it by `run`; with nothing presented
nothing changes (R206). -/
def takeNext (run : Instr → State → Host.Outcome State Fault Refusal) (s : State) :
    Host.Outcome State Fault Refusal :=
  match s.inbox with
  | [] => .next s
  | r :: rest =>
    match decode r with
    | .ok i => run i { s with inbox := rest }
    | .error _ => .refused .undefinedWord

end Sys2Proof.Machine
end

