-- ==== Sys2Proof/Machine/Step.lean ====
section
/-! DEFINITION. One step: the block performs the next operation the host presents, to completion
(00_scope.md R3, R13, 20_memory.md R72); with nothing presented nothing changes
(44_system_and_host.md R206). -/

namespace Sys2Proof.Machine

/-- One step of the block with its own record. -/
def step (s : State) : Host.Outcome State Fault Refusal := takeNext exec s

/-- One step of the block with the record `p` plugged in, a substituted transform among it
(42_payload_transform.md R177). -/
def stepWith (p : Params) (s : State) : Host.Outcome State Fault Refusal :=
  takeNext (execWith p) s

/-- The host presents the word `w` next, before whatever it was going to present. -/
def State.withFetchWord (s : State) (nbits w : Nat) : State :=
  { s with inbox := tableRequest nbits w :: s.inbox }

end Sys2Proof.Machine
end

