-- ==== Sys2Proof/Machine/Script.lean ====
section
/-! DEFINITION. What the host can present as sequences: the frame of 30_encoding.md R98 and the
pseudo-operations of R109. None of it is part of the block, which contains no encoder of frames
(00_scope.md R6). -/

namespace Sys2Proof.Machine

/-- The header of R98: the length byte, filler offset 1, the payload length high byte first, then
the filler of offsets 4 to H - 1. -/
def mkHeader (h : Byte) (f1 : Byte) (plen : Half) (fs : List Byte) : List Byte :=
  h :: f1 :: hiByte plen :: loByte plen :: fs

/-- Preamble, header and payload: what the CRC covers (R96). -/
def mkBody (h f1 : Byte) (fs p : List Byte) : List Byte :=
  Config.preamble ++ mkHeader h f1 (BitVec.ofNat 16 p.length) fs ++ p

/-- The trailer: the CRC, high byte first (R96). -/
def mkTrailer (body : List Byte) : List Byte := [hiByte (crc16 body), loByte (crc16 body)]

/-- `mkframe(H, f, p)` (R98), `f1` the filler at offset 1 and `fs` the H - 4 filler bytes at
offsets 4 to H - 1. -/
def mkFrame (h f1 : Byte) (fs p : List Byte) : List Byte :=
  mkBody h f1 fs p ++ mkTrailer (mkBody h f1 fs p)

/-- What R98 asks of the arguments of `mkframe`, and that the frame fits the buffer
(20_memory.md R76): P <= CAP - 10 - H. -/
abbrev FrameFits (h : Byte) (fs p : List Byte) : Prop :=
  HeaderLengthLegal h ∧ fs.length + 4 = h.toNat ∧ h.toNat + 10 + p.length ≤ Config.cap

/-- `FEEDS b0 b1 ... bn` (R109). -/
def scriptFeeds (bs : List Byte) : List Request := bs.map fun b => encode (.feed b)

/-- `FEEDN k b` (R109). -/
def scriptFeedN (k : Nat) (b : Byte) : List Request := scriptFeeds (List.replicate k b)

/-- `FRAME H f p` with one filler byte (R109). -/
def scriptFrame (h f : Byte) (p : List Byte) : List Request :=
  scriptFeeds (mkFrame h f (List.replicate (h.toNat - 4) f) p)

/-- `FORWARD "text"` (R109), the metrics arbitrary. -/
def scriptForward (text : List Byte) (g : Sig) : List Request :=
  [encode (.maybeForward ⟨text, g⟩)]

end Sys2Proof.Machine
end

