-- ==== Sys2Proof/Safety.lean ====
section
/-! DEFINITION. What counts as a safe state, in the terms the claims use: the invariants of
10_state.md R30, the reset state of the decoder (40_frame_decoder.md R121), and the events of a
sequence of FEEDs. -/

namespace Sys2Proof.Machine

/-- Exactly the cells 0 to LEN - 1 hold a value (R23). -/
abbrev BufferFilled (s : State) : Prop := s.buf.map Prod.fst = List.range s.len

/-- R30, row S_PRE. -/
abbrev PreInv (s : State) : Prop :=
  s.len = s.mpos ∧ s.mpos ≤ 7 ∧
  memSlice s 0 s.len = some (List.replicate s.len 0xAA) ∧
  s.hlen = 0 ∧ s.hcnt = 0 ∧ s.plen = 0 ∧ s.pcnt = 0 ∧ s.tcnt = 0

/-- R30, row S_HDR. -/
abbrev HdrInv (s : State) : Prop :=
  s.mpos = 0 ∧ memSlice s 0 8 = some Config.preamble ∧ s.len = 8 + s.hcnt ∧
  ((s.hcnt = 0 ∧ s.hlen = 0) ∨
    (1 ≤ s.hcnt ∧ s.hcnt < s.hlen.toNat ∧ HeaderLengthLegal s.hlen ∧
      memByte s 8 = some s.hlen)) ∧
  s.plen = 0 ∧ s.pcnt = 0 ∧ s.tcnt = 0

/-- What the rows S_PAY and S_CRC of R30 share: preamble, header and lengths are in place. -/
abbrev HeaderInPlace (s : State) : Prop :=
  s.mpos = 0 ∧ memSlice s 0 8 = some Config.preamble ∧
  memByte s 8 = some s.hlen ∧ s.hlen.toNat = s.hcnt ∧ HeaderLengthLegal s.hlen ∧
  memHalf s 10 = some s.plen

/-- R30, row S_PAY. -/
abbrev PayInv (s : State) : Prop :=
  HeaderInPlace s ∧ 1 ≤ s.plen.toNat ∧ s.pcnt < s.plen.toNat ∧
  s.len = 8 + s.hlen.toNat + s.pcnt ∧ s.len ≤ Config.cap ∧ s.tcnt = 0

/-- R30, row S_CRC. -/
abbrev CrcInv (s : State) : Prop :=
  HeaderInPlace s ∧ s.pcnt = s.plen.toNat ∧ s.tcnt ≤ 1 ∧
  s.len = 8 + s.hlen.toNat + s.plen.toNat + s.tcnt ∧ s.len ≤ Config.cap

/-- The decoder's invariants (R30, R23): the row of the phase holds. -/
abbrev DecoderInv (s : State) : Prop :=
  BufferFilled s ∧
  (s.phase = .pre → PreInv s) ∧ (s.phase = .hdr → HdrInv s) ∧
  (s.phase = .pay → PayInv s) ∧ (s.phase = .crc → CrcInv s)

/-- FWC <= MAX_HOPS (R30, R187), for the block's own record. -/
abbrev HopInv (s : State) : Prop := s.fwc ≤ Config.params.maxHops

/-- All of R30 that speaks of one state. -/
abbrev Inv (s : State) : Prop := DecoderInv s ∧ HopInv s

/-- Every decoder register at its reset value and the buffer empty (R121, R45). -/
abbrev DecoderIsReset (s : State) : Prop :=
  s.phase = .pre ∧ s.mpos = 0 ∧ s.len = 0 ∧ s.buf = [] ∧ s.hlen = 0 ∧ s.hcnt = 0 ∧
  s.plen = 0 ∧ s.pcnt = 0 ∧ s.tcnt = 0

/-- Two states have the same decoder: PHASE, MPOS, LEN, BUF, HLEN, HCNT, PLEN, PCNT, TCNT (R20). -/
abbrev SameDecoder (s t : State) : Prop :=
  t.phase = s.phase ∧ t.mpos = s.mpos ∧ t.len = s.len ∧ t.buf = s.buf ∧ t.hlen = s.hlen ∧
  t.hcnt = s.hcnt ∧ t.plen = s.plen ∧ t.pcnt = s.pcnt ∧ t.tcnt = s.tcnt

/-- Two states have the same counters. -/
abbrev SameCounters (s t : State) : Prop := t.rxc = s.rxc ∧ t.fwc = s.fwc ∧ t.cec = s.cec

/-- Two states agree on what the host side holds: what is presented next and what was sent. -/
abbrev SameHostSide (s t : State) : Prop := t.inbox = s.inbox ∧ t.sent = s.sent

/-- The next state of an outcome, if it is one. -/
def nextOf : Host.Outcome State Fault Refusal → Option State
  | .next t => some t
  | .fault _ => none
  | .refused _ => none

/-- The event an operation returned, if it returned one. -/
def eventOf (s : State) : Option DecoderEvent :=
  match s.out with
  | .event ev => some ev
  | .none => none
  | .checksum _ => none
  | .bytes _ => none
  | .outgoing _ => none
  | .stats _ _ _ => none
  | .received _ _ _ => none

/-- The decoder's event in an output: that of a FEED, or of the FEED inside an RX_BYTE (R198). -/
def decoderEventOf : Output → Option DecoderEvent
  | .event ev => some ev
  | .received ev _ _ => some ev
  | .none => none
  | .checksum _ => none
  | .bytes _ => none
  | .outgoing _ => none
  | .stats _ _ _ => none

/-- The OutgoingMessage in an output: that of a MAYBE_FORWARD, or of the one inside an RX_BYTE. -/
def forwardedOf : Output → Option (List Byte)
  | .outgoing o => o
  | .received _ _ o => o
  | .none => none
  | .event _ => none
  | .checksum _ => none
  | .bytes _ => none
  | .stats _ _ _ => none

/-- The content of the Message in an output (R198, R199). -/
def deliveredOf : Output → Option (List Byte)
  | .received _ m _ => m.map Message.content
  | .outgoing _ => none
  | .none => none
  | .event _ => none
  | .checksum _ => none
  | .bytes _ => none
  | .stats _ _ _ => none

/-- The event says that a frame was delivered. -/
def isFrameReady : Option DecoderEvent → Bool
  | some (.frameReady _) => true
  | some .pending => false
  | some (.error _) => false
  | none => false

/-- The rows of the transition table of 40_frame_decoder.md R137 that a FEED can take: the phase it
begins in, the phase it leaves, its event. -/
def transitionAllowed : Phase → Phase → DecoderEvent → Bool
  | .pre, .pre, .pending => true
  | .pre, .hdr, .pending => true
  | .hdr, .hdr, .pending => true
  | .hdr, .pre, .error .invalidHeaderLength => true
  | .hdr, .pay, .pending => true
  | .hdr, .crc, .pending => true
  | .pay, .pay, .pending => true
  | .pay, .crc, .pending => true
  | .pay, .pre, .error .bufferOverflow => true
  | .crc, .crc, .pending => true
  | .crc, .pre, .error .bufferOverflow => true
  | .crc, .pre, .frameReady _ => true
  | .crc, .pre, .error .crcMismatch => true
  | _, _, _ => false

/-- FEED the bytes one by one (pseudo-operation FEEDS, R109): the events in order and the state
after the last; `none` if some FEED does not complete with an event. -/
def feedAll : List Byte → State → Option (List DecoderEvent × State)
  | [], s => some ([], s)
  | b :: bs, s =>
    match exec (.feed b) s with
    | .next t =>
      match eventOf t, feedAll bs t with
      | some ev, some (evs, u) => some (ev :: evs, u)
      | _, _ => none
    | .fault _ => none
    | .refused _ => none

end Sys2Proof.Machine
end

