-- ==== Sys2Proof/Certificates/Slice0/Obligations.lean ====
section
/-! DEFINITION. The statements about the machine, each from the rules of spec/ its comment names. -/

open Sys2Proof Sys2Proof.Machine

/-! ### Encoding and the step -/

/-- Decoding what an operation is encoded to gives its generic row (30_encoding.md R101, R102): the
operation itself for every row that is no sub-case. -/
def Obligations.DecodeOfEncodeIsTheGenericRow : Prop :=
  ∀ i : Instr, i.wellFormed = true →
    decode (encode i) = .ok i.generic ∧ (i.generic = i → decode (encode i) = .ok i)

/-- Whatever decodes is a well-formed generic row, and encoding it gives back the word and an
operation that decodes to it (30_encoding.md R101, R102). -/
def Obligations.EncodeOfDecodeIsTheWord : Prop :=
  ∀ (r : Request) (i : Instr), decode r = .ok i →
    i.wellFormed = true ∧ i.generic = i ∧ (encode i).word = r.word ∧ decode (encode i) = .ok i

/-- A word with the code of an operation without a byte operand and bits 7:0 not zero is no
operation, and no other word is (30_encoding.md R102); the step refuses it (the model's reading,
log 8). -/
def Obligations.StrayByteBitsAreRefused : Prop :=
  (∀ r : Request, decode r = .error .byteBitsNotZero ↔
    (opField r.word).toNat ∈ [0, 2, 3, 4, 5, 6] ∧ byteField r.word ≠ 0) ∧
  (∀ (s : State) (r : Request) (rest : List Request), s.inbox = r :: rest →
    (opField r.word).toNat ∈ [0, 2, 3, 4, 5, 6] → byteField r.word ≠ 0 →
    step s = .refused .undefinedWord)

/-- Codes 0x8 to 0xF are refused, in every state, whatever bits 7:0 are (30_encoding.md R105). -/
def Obligations.ReservedCodesAreRefused : Prop :=
  (∀ (op : OpCode) (b : Byte) (s : State), exec (.reserved op b) s = .refused .reservedOperation) ∧
  (∀ (s : State) (r : Request) (rest : List Request), s.inbox = r :: rest →
    8 ≤ (opField r.word).toNat → step s = .refused .reservedOperation)

/-- Words written out from 30_encoding.md R102 and 95_test_vectors.md part 6. -/
def Obligations.TableWordsDecodeToTheirRows : Prop :=
  decodeTableWord 16 0x000 = some .reset ∧ decodeTableWord 16 0x1AA = some (.feed 0xAA) ∧
  decodeTableWord 16 0x114 = some (.feed 20) ∧ decodeTableWord 16 0x200 = some .decReset ∧
  decodeTableWord 16 0x300 = some (.crc16 []) ∧ decodeTableWord 16 0x400 = some (.transform []) ∧
  decodeTableWord 16 0x500 = some (.maybeForward ⟨[], ⟨0, 0⟩⟩) ∧
  decodeTableWord 16 0x600 = some .statsRead ∧
  decodeTableWord 16 0x746 = some (.rxByte 0x46 ⟨0, 0⟩) ∧
  decodeTableWord 16 0x800 = some (.reserved 8 0) ∧
  decodeTableWord 16 0xFFF = some (.reserved 15 0xFF) ∧ decodeTableWord 16 0x001 = none

/-- A step takes the first operation presented and is exec of what it decodes to (00_scope.md R3,
20_memory.md R72). The inbox is the model's own (log 1). -/
def Obligations.StepRunsTheDecodedOperation : Prop :=
  ∀ (s : State) (r : Request) (rest : List Request) (i : Instr),
    s.inbox = r :: rest → decode r = .ok i → step s = exec i { s with inbox := rest }

/-- With nothing presented nothing changes, for any number of steps (44_system_and_host.md R206). -/
def Obligations.NothingPresentedNothingChanges : Prop :=
  ∀ (n : Nat) (s : State), s.inbox = [] → Host.Core.run Sys2Proof.core n s = .next s

/-! ### Reset -/

/-- The state after RESET (10_state.md R45, 70_reset_and_hazards.md R251): every decoder register
and counter, and the first byte fed is compared with the first preamble byte. -/
def Obligations.ResetStateIsTheTable : Prop :=
  DecoderIsReset State.reset ∧
  State.reset.rxc = 0 ∧ State.reset.fwc = 0 ∧ State.reset.cec = 0 ∧
  (∀ b : Byte, exec (.feed b) State.reset =
    .next (if b = 0xAA then
      { State.reset with mpos := 1, len := 1, buf := [(0, 0xAA)], out := .event .pending }
    else { State.reset with out := .event .pending }))

/-- RESET in any state (44_system_and_host.md R195): the whole of the block is as after reset; the
host's side is untouched. -/
def Obligations.ResetOperationFromAnyState : Prop :=
  ∀ s : State, exec .reset s = .next { State.reset with inbox := s.inbox, sent := s.sent }

/-- DEC_RESET in any state (44_system_and_host.md R196): the decoder is reset, no counter changes,
no event; in S_PRE with MPOS = 0 it changes nothing. -/
def Obligations.DecResetOperationFromAnyState : Prop :=
  (∀ s : State, exec .decReset s =
    .next { s with phase := .pre, mpos := 0, len := 0, buf := [], hlen := 0, hcnt := 0, plen := 0,
                   pcnt := 0, tcnt := 0, out := .none }) ∧
  (∀ s : State, DecoderInv s → s.phase = .pre → s.mpos = 0 →
    exec .decReset s = .next { s with out := .none })

/-! ### The CRC Engine -/

/-- CRC16 (41_crc_engine.md R171): in every state the checksum of the operand is returned and no
state of the block changes; the empty sequence gives 0xFFFF, "123456789" gives 0x4B37. -/
def Obligations.Crc16ReturnsTheChecksum : Prop :=
  (∀ (x : List Byte) (s : State), exec (.crc16 x) s = .next { s with out := .checksum (crc16 x) }) ∧
  crc16 [] = 0xFFFF ∧ crc16 [0x31, 0x32, 0x33, 0x34, 0x35, 0x36, 0x37, 0x38, 0x39] = 0x4B37

/-- The algorithm (41_crc_engine.md R160 to R164): from 0xFFFF, byte by byte; the byte enters the
low half; eight shifts; a shift tests bit 0 of the value before it. -/
def Obligations.CrcAlgorithmBitForBit : Prop :=
  crc16 [] = 0xFFFF ∧
  (∀ (s : List Byte) (b : Byte), crc16 (s ++ [b]) = crcByte (crc16 s) b) ∧
  (∀ (reg : Half) (b : Byte),
    crcByte reg b = (List.range 8).foldl (fun r _ => crcShift r) (reg ^^^ b.setWidth 16)) ∧
  (∀ reg : Half, (crcShift reg).toNat =
    if reg.toNat % 2 = 1 then (reg.toNat / 2) ^^^ 0xA001 else reg.toNat / 2) ∧
  crcByte 0xFFFF 0x31 = 0x947E

/-- The bit-serial form (41_crc_engine.md R168). -/
def Obligations.CrcBitSerialFormAgrees : Prop :=
  ∀ (reg : Half) (b : Byte), crcByteSerial reg b = crcByte reg b

/-- The table form (41_crc_engine.md R169), with the spot checks of 95_test_vectors.md K6. -/
def Obligations.CrcTableFormAgrees : Prop :=
  (∀ (reg : Half) (b : Byte), crcByteByTable reg b = crcByte reg b) ∧
  crcTable 0x01 = 0xC0C1 ∧ crcTable 0x80 = 0xA001 ∧ crcTable 0xFF = 0x4040 ∧
  crcTable 0xCE = 0x9481

/-- Incremental use (41_crc_engine.md R170), the value after the preamble (R174), and the linearity
of 95_test_vectors.md K5. -/
def Obligations.CrcIsIncrementalAndLinear : Prop :=
  (∀ s t : List Byte, crc16 (s ++ t) = crcFold (crc16 s) t) ∧
  (∀ t : List Byte, crc16 (Config.preamble ++ t) = crcFold 0x333F t) ∧
  (∀ a b : List Byte, a.length = b.length →
    crc16 a ^^^ crc16 b ^^^ crc16 (List.replicate a.length 0) =
      crc16 (List.zipWith (fun x y => x ^^^ y) a b))

/-- The residue (41_crc_engine.md R172, 95_test_vectors.md K5): low byte first the register ends at
zero, whatever the data; in wire order it ends at different values for different data. -/
def Obligations.CrcResidueOnlyLowByteFirst : Prop :=
  (∀ x : List Byte, crc16 (x ++ [loByte (crc16 x), hiByte (crc16 x)]) = 0) ∧
  (∃ x y : List Byte,
    crc16 (x ++ [hiByte (crc16 x), loByte (crc16 x)]) ≠
      crc16 (y ++ [hiByte (crc16 y), loByte (crc16 y)]))

/-! ### The buffer -/

/-- Two bytes of BUF read as one value, the lower index more significant (20_memory.md R65,
30_encoding.md R94). -/
def Obligations.TwoByteReadsAreBigEndian : Prop :=
  ∀ (s : State) (i : Nat) (hi lo : Byte),
    memByte s i = some hi → memByte s (i + 1) = some lo →
    ∃ v, memHalf s i = some v ∧ v.toNat = hi.toNat * 256 + lo.toNat ∧ hiByte v = hi ∧ loByte v = lo

/-- BufAppend (20_memory.md R62): at LEN = CAP it raises; below, it stores at index LEN, counts, and
leaves every other cell and every other field alone. -/
def Obligations.BufAppendIsBoundsChecked : Prop :=
  ∀ (b : Byte) (s : State),
    (s.len = Config.cap → bufAppend b s = none) ∧
    (s.len < Config.cap → ∃ t, bufAppend b s = some t ∧ t.len = s.len + 1 ∧
      memByte t s.len = some b ∧ (∀ a, a ≠ s.len → t.buf.read a = s.buf.read a) ∧
      t = { s with buf := t.buf, len := t.len })

/-- Every step keeps the buffer in canonical form: addresses strictly rising, none at CAP or beyond
(20_memory.md R60, 60_exceptions.md R218). -/
def Obligations.StepKeepsBufferCanonical : Prop :=
  ∀ s t : State, s.buf.wf = true → step s = .next t → t.buf.wf = true

/-! ### FEED, row by row -/

/-- R123. -/
def Obligations.PreambleByteMatches : Prop :=
  ∀ s : State, DecoderInv s → SelPreMatch s 0xAA →
    exec .feedPreMatch s = exec (.feed 0xAA) s ∧
    exec .feedPreMatch s =
      .next { s with buf := s.buf.write s.mpos 0xAA, len := s.mpos + 1, mpos := s.mpos + 1,
                     out := .event .pending }

/-- R124: the eighth match is not reported, and whatever byte comes next is the header-length
byte. -/
def Obligations.PreambleCompletes : Prop :=
  (encode .feedPreDone).word = 0x1AA ∧
  ∀ s : State, DecoderInv s → SelPreDone s 0xAA → ∃ t,
    t = { s with buf := s.buf.write 7 0xAA, len := 8, mpos := 0, phase := .hdr,
                 out := .event .pending } ∧
    exec .feedPreDone s = .next t ∧ exec (.feed 0xAA) s = .next t ∧
    memSlice t 0 8 = some Config.preamble ∧ t.hcnt = 0 ∧
    (∀ b : Byte, exec (.feed b) t =
      if 20 ≤ b.toNat ∧ b.toNat ≤ 30 then
        .next { t with hlen := b, buf := t.buf.write 8 b, len := 9, hcnt := 1,
                       out := .event .pending }
      else .next { t.fullReset with out := .event (.error .invalidHeaderLength) })

/-- R125. -/
def Obligations.PreambleMissRestarts : Prop :=
  ∀ (s : State) (b : Byte), SelPreMiss s b →
    exec (.feedPreMiss b) s = exec (.feed b) s ∧
    exec (.feedPreMiss b) s =
      .next { s with mpos := 0, len := 0, buf := [], out := .event .pending }

/-- R126. -/
def Obligations.HeaderLengthAccepted : Prop :=
  ∀ (s : State) (b : Byte), DecoderInv s → SelHdrLenOk s b →
    exec (.feedHdrLenOk b) s = exec (.feed b) s ∧
    exec (.feedHdrLenOk b) s =
      .next { s with hlen := b, buf := s.buf.write 8 b, len := 9, hcnt := 1,
                     out := .event .pending }

/-- R127. -/
def Obligations.HeaderLengthRejected : Prop :=
  ∀ (s : State) (b : Byte), SelHdrLenBad s b →
    exec (.feedHdrLenBad b) s = exec (.feed b) s ∧
    exec (.feedHdrLenBad b) s =
      .next { s.fullReset with out := .event (.error .invalidHeaderLength) }

/-- R128. -/
def Obligations.HeaderBodyByteStored : Prop :=
  ∀ (s : State) (b : Byte), DecoderInv s → SelHdrBody s →
    (encode (.feedHdrBody b)).word = 0x100 + b.setWidth 12 ∧
    exec (.feedHdrBody b) s = exec (.feed b) s ∧
    exec (.feedHdrBody b) s =
      .next { s with buf := s.buf.write (8 + s.hcnt) b, len := 9 + s.hcnt, hcnt := s.hcnt + 1,
                     out := .event .pending }

/-- R129: the payload length is what header offsets 2 and 3 hold; zero goes straight to S_CRC. -/
def Obligations.HeaderCompletes : Prop :=
  ∀ (s : State) (b : Byte), DecoderInv s → SelHdrDone s →
    exec (.feedHdrDone b) s = exec (.feed b) s ∧
    ∃ p, memHalf s 10 = some p ∧
      exec (.feedHdrDone b) s =
        .next { s with buf := s.buf.write (7 + s.hlen.toNat) b, len := 8 + s.hlen.toNat,
                       hcnt := s.hlen.toNat, plen := p, phase := if p = 0 then .crc else .pay,
                       out := .event .pending }

/-- R130. -/
def Obligations.PayloadByteStored : Prop :=
  ∀ (s : State) (b : Byte), DecoderInv s → SelPayByte s →
    (encode (.feedPayByte b)).word = 0x100 + b.setWidth 12 ∧
    exec (.feedPayByte b) s = exec (.feed b) s ∧
    exec (.feedPayByte b) s =
      .next { s with buf := s.buf.write (8 + s.hlen.toNat + s.pcnt) b,
                     len := 9 + s.hlen.toNat + s.pcnt, pcnt := s.pcnt + 1,
                     out := .event .pending }

/-- R131: taken even when LEN has just become CAP, and then the next byte overflows. -/
def Obligations.PayloadCompletes : Prop :=
  ∀ (s : State) (b : Byte), DecoderInv s → SelPayDone s → ∃ t,
    t = { s with buf := s.buf.write (7 + s.hlen.toNat + s.plen.toNat) b,
                 len := 8 + s.hlen.toNat + s.plen.toNat, pcnt := s.plen.toNat, phase := .crc,
                 out := .event .pending } ∧
    (encode (.feedPayDone b)).word = 0x100 + b.setWidth 12 ∧
    exec (.feedPayDone b) s = .next t ∧ exec (.feed b) s = .next t ∧
    (t.len = Config.cap → ∀ c : Byte,
      exec (.feed c) t = .next { t.fullReset with out := .event (.error .bufferOverflow) })

/-- R132. -/
def Obligations.PayloadOverflows : Prop :=
  ∀ (s : State) (b : Byte), SelPayOvf s →
    exec (.feedPayOvf b) s = exec (.feed b) s ∧
    exec (.feedPayOvf b) s = .next { s.fullReset with out := .event (.error .bufferOverflow) }

/-- R133: nothing is compared yet. -/
def Obligations.FirstTrailerByteStored : Prop :=
  ∀ (s : State) (b : Byte), DecoderInv s → SelCrcFirst s →
    (encode (.feedCrcFirst b)).word = 0x100 + b.setWidth 12 ∧
    exec (.feedCrcFirst b) s = exec (.feed b) s ∧
    exec (.feedCrcFirst b) s =
      .next { s with buf := s.buf.write (8 + s.hlen.toNat + s.plen.toNat) b,
                     len := 9 + s.hlen.toNat + s.plen.toNat, tcnt := 1, out := .event .pending }

/-- R134, R221: the bounds check comes before any comparison, so no counter moves. -/
def Obligations.TrailerOverflows : Prop :=
  ∀ (s : State) (b : Byte), SelCrcOvf s →
    exec (.feedCrcOvf b) s = exec (.feed b) s ∧
    exec (.feedCrcOvf b) s = .next { s.fullReset with out := .event (.error .bufferOverflow) }

/-- R135, R138: the frame is delivered by value, RXC counts it, the decoder is reset. -/
def Obligations.MatchingTrailerDelivers : Prop :=
  ∀ (s : State) (b : Byte), DecoderInv s → SelCrcOk s b →
    exec (.feedCrcOk b) s = exec (.feed b) s ∧
    ∃ hi body payload,
      memByte s (8 + s.hlen.toNat + s.plen.toNat) = some hi ∧
      memSlice s 0 (8 + s.hlen.toNat + s.plen.toNat) = some body ∧
      memSlice s (8 + s.hlen.toNat) s.plen.toNat = some payload ∧
      be16 hi b = crc16 body ∧
      exec (.feedCrcOk b) s =
        .next { s.fullReset with
                  rxc := satInc s.rxc
                  out := .event (.frameReady ⟨s.hlen, s.plen, payload, be16 hi b⟩) }

/-- R136: CEC counts once, RXC does not, and nothing of the frame is delivered. -/
def Obligations.DifferingTrailerIsAMismatch : Prop :=
  ∀ (s : State) (b : Byte), SelCrcBad s b →
    (encode (.feedCrcBad b)).word = 0x100 + b.setWidth 12 ∧
    exec (.feedCrcBad b) s = exec (.feed b) s ∧
    (∃ hi body, memByte s (s.len - 1) = some hi ∧ memSlice s 0 (s.len - 1) = some body ∧
      be16 hi b ≠ crc16 body) ∧
    exec (.feedCrcBad b) s =
      .next { s.fullReset with cec := satInc s.cec, out := .event (.error .crcMismatch) }

/-! ### FEED as a whole -/

/-- The fourteen rules and the listing agree (40_frame_decoder.md R122 to R136, R139), in every
state and for every byte: a FEED.* row does what FEED does. -/
def Obligations.RowsAgreeWithTheListing : Prop :=
  ∀ (i : Instr) (b : Byte) (s : State), i.generic = .feed b → exec i s = exec (.feed b) s

/-- Exactly one row handles each FEED (30_encoding.md R103, 40_frame_decoder.md R122). -/
def Obligations.ExactlyOneRowHandlesEachFeed : Prop :=
  ∀ (s : State) (b : Byte), DecoderInv s → (feedRows s b).count true = 1

/-- R120: in every state the invariants allow and for every byte a FEED completes with one event;
FWC is neither read nor written. -/
def Obligations.FeedAlwaysCompletes : Prop :=
  (∀ b : Byte, decode (Request.ofWord (0x100 + b.setWidth 12)) = .ok (.feed b)) ∧
  ∀ (s : State) (b : Byte), DecoderInv s → ∃ t ev,
    exec (.feed b) s = .next t ∧ t.out = .event ev ∧ t.fwc = s.fwc ∧
    (∀ v : Count, exec (.feed b) { s with fwc := v } = .next { t with fwc := v })

/-- The transition table (40_frame_decoder.md R137, R140): a FEED moves only along its rows, with
the event the row names, and every event but Pending leaves the decoder reset. -/
def Obligations.PhasesMoveOnlyAlongTheTable : Prop :=
  ∀ (s t : State) (b : Byte), DecoderInv s → exec (.feed b) s = .next t →
    ∃ ev, t.out = .event ev ∧ transitionAllowed s.phase t.phase ev = true ∧
      (ev ≠ .pending → DecoderIsReset t)

/-- Only FEED, RX_BYTE, RESET and DEC_RESET change a decoder register or the buffer
(10_state.md R32). -/
def Obligations.OnlyDecoderOperationsChangeTheDecoder : Prop :=
  ∀ (i : Instr) (s t : State), (∀ b, i.generic ≠ .feed b) → (∀ b g, i ≠ .rxByte b g) →
    i ≠ .reset → i ≠ .decReset → exec i s = .next t →
    SameDecoder s t ∧ (∀ a, t.buf.read a = s.buf.read a)

/-- The frame of every FEED row: FWC and the host's side never change; RXC moves only with
FrameReady and CEC only with CrcMismatch; either the buffer is emptied, or the byte is stored at
index LEN and every other cell reads as before, and of the registers only those change that the
rules of the phase write (R123 to R136). -/
def Obligations.FeedFrame : Prop :=
  ∀ (i : Instr) (b : Byte) (s t : State), i.generic = .feed b → exec i s = .next t →
    ∃ ev, t.out = .event ev ∧ t.fwc = s.fwc ∧ SameHostSide s t ∧
      (¬ (isFrameReady (some ev) = true) → t.rxc = s.rxc) ∧
      (ev ≠ .error .crcMismatch → t.cec = s.cec) ∧
      ((t.len = 0 ∧ t.buf = []) ∨
       (ev = .pending ∧ s.len < Config.cap ∧ t.len = s.len + 1 ∧
        t.buf.read s.len = some b ∧ (∀ a, a ≠ s.len → t.buf.read a = s.buf.read a) ∧
        (s.phase = .pre → t.hlen = s.hlen ∧ t.hcnt = s.hcnt ∧ t.plen = s.plen ∧
          t.pcnt = s.pcnt ∧ t.tcnt = s.tcnt) ∧
        (s.phase = .hdr → t.mpos = s.mpos ∧ t.pcnt = s.pcnt ∧ t.tcnt = s.tcnt) ∧
        (s.phase = .pay → t.mpos = s.mpos ∧ t.hlen = s.hlen ∧ t.hcnt = s.hcnt ∧
          t.plen = s.plen ∧ t.tcnt = s.tcnt) ∧
        (s.phase = .crc → t.phase = s.phase ∧ t.mpos = s.mpos ∧ t.hlen = s.hlen ∧
          t.hcnt = s.hcnt ∧ t.plen = s.plen ∧ t.pcnt = s.pcnt)))

/-- Exception entry (60_exceptions.md R222): an error leaves the reset decoder, one more in CEC for
a CRC mismatch and for no other kind, and nothing saved: everything else is as before. -/
def Obligations.ErrorEntryResetsAndCounts : Prop :=
  ∀ (i : Instr) (b : Byte) (s t : State) (k : ErrorKind), i.generic = .feed b →
    exec i s = .next t → t.out = .event (.error k) →
    t = { s.fullReset with cec := if k = .crcMismatch then satInc s.cec else s.cec
                           out := .event (.error k) }

/-! ### Invariants -/

/-- The invariants of 10_state.md R30 hold after reset. -/
def Obligations.ResetSatisfiesTheInvariants : Prop := Inv State.reset

/-- Every step keeps the invariants of 10_state.md R30, from every state that meets them. -/
def Obligations.StepKeepsTheInvariants : Prop :=
  ∀ s t : State, Inv s → step s = .next t → Inv t

/-- The counters never decrease except by RESET (10_state.md R30, R38). -/
def Obligations.CountersDecreaseOnlyByReset : Prop :=
  ∀ (i : Instr) (s t : State), i ≠ .reset → exec i s = .next t →
    s.rxc ≤ t.rxc ∧ s.fwc ≤ t.fwc ∧ s.cec ≤ t.cec

/-- Who writes the counters (10_state.md R35 to R37, 43_forward_controller.md R182): RXC moves
exactly with a FrameReady, CEC exactly with a CrcMismatch, FWC exactly with a forward, and what is
sent is exactly what was forwarded. -/
def Obligations.CountersFollowTheEvents : Prop :=
  ∀ (i : Instr) (s t : State), i ≠ .reset → exec i s = .next t →
    t.rxc = (if isFrameReady (decoderEventOf t.out) then satInc s.rxc else s.rxc) ∧
    t.cec = (if decoderEventOf t.out = some (.error .crcMismatch) then satInc s.cec else s.cec) ∧
    t.fwc = (if (forwardedOf t.out).isSome then s.fwc + 1 else s.fwc) ∧
    t.sent = s.sent ++ (forwardedOf t.out).toList

/-! ### The Forward Controller -/

/-- MAYBE_FORWARD and its two rows (43_forward_controller.md R180 to R186), in every state: when
the content begins with the marker and FWC is below the ceiling, the rewritten marker with
hop FWC + 1 and the whole content are sent and returned and FWC counts; otherwise nothing. R182
gives MAYBE_FORWARD.FWD its effect where forward_ok holds and R183 MAYBE_FORWARD.NONE where it does
not; that a row named in the other case acts as MAYBE_FORWARD is the model's reading (log 7). -/
def Obligations.MaybeForwardDecidesAndCounts : Prop :=
  ∀ (i : Instr) (m : Message) (s : State), i.generic = .maybeForward m →
    exec i s =
      .next (if StartsWith m.content Config.params.marker ∧ s.fwc < Config.params.maxHops then
        { s with
            fwc := s.fwc + 1
            sent := s.sent ++ [Config.params.rewrite (s.fwc.toNat + 1) ++ m.content]
            out := .outgoing (some (Config.params.rewrite (s.fwc.toNat + 1) ++ m.content)) }
      else { s with out := .outgoing none })

/-- The non-forwarding case (43_forward_controller.md R183): silent, whatever the record of
parameters; a message without the marker never, and none at or above the ceiling, a ceiling of
zero included. -/
def Obligations.RefusedForwardIsSilent : Prop :=
  (∀ (m : Message) (s : State), ¬ ForwardOk Config.params s m →
    exec (.maybeForwardNone m) s = .next { s with out := .outgoing none } ∧
    exec (.maybeForward m) s = .next { s with out := .outgoing none }) ∧
  (∀ (p : Params) (m : Message) (s : State),
    (¬ StartsWith m.content p.marker → maybeForward p m s = (s, none)) ∧
    (p.maxHops ≤ s.fwc → maybeForward p m s = (s, none)) ∧
    (p.maxHops = 0 → maybeForward p m s = (s, none)))

/-- Relay exhaustion (43_forward_controller.md R187, 70_reset_and_hazards.md R261): at the ceiling
no operation but RESET sends or counts anything. -/
def Obligations.AtTheCeilingNothingIsSent : Prop :=
  ∀ (i : Instr) (s t : State), i ≠ .reset → s.fwc = Config.params.maxHops →
    exec i s = .next t → t.sent = s.sent ∧ t.fwc = s.fwc ∧ forwardedOf t.out = none

/-- A node relays at most MAX_HOPS messages between two resets (43_forward_controller.md R187,
70_reset_and_hazards.md R262): over any number of steps that perform no RESET, every message sent
is one count of FWC, and FWC stays at or below the ceiling. -/
def Obligations.AtMostMaxHopsMessagesAreRelayed : Prop :=
  ∀ (n : Nat) (s t : State), HopInv s → (∀ r ∈ s.inbox, decode r ≠ .ok .reset) →
    Host.Core.run Sys2Proof.core n s = .next t →
    t.sent.length + s.fwc.toNat = s.sent.length + t.fwc.toNat ∧ HopInv t ∧
    t.sent.length + s.fwc.toNat ≤ s.sent.length + Config.params.maxHops.toNat

/-- The signal metrics play no part (43_forward_controller.md R188, 44_system_and_host.md R199): two
runs that differ in them alone agree in everything but the metrics copied into the Message. -/
def Obligations.SignalMetricsPlayNoPart : Prop :=
  (∀ (c : List Byte) (g g' : Sig) (s : State),
    exec (.maybeForward ⟨c, g⟩) s = exec (.maybeForward ⟨c, g'⟩) s) ∧
  (∀ (b : Byte) (g g' : Sig) (s t : State), exec (.rxByte b g) s = .next t →
    ∃ t', exec (.rxByte b g') s = .next t' ∧ t' = { t with out := t'.out } ∧
      decoderEventOf t'.out = decoderEventOf t.out ∧ forwardedOf t'.out = forwardedOf t.out ∧
      deliveredOf t'.out = deliveredOf t.out)

/-! ### The other operations -/

/-- TRANSFORM (42_payload_transform.md R175, R176): in every state the transform of the operand is
returned and nothing else changes; with the reference transform, which the block's own record
carries (log 10), that is the operand. -/
def Obligations.TransformReturnsTheContent : Prop :=
  ∀ (x : List Byte) (s : State),
    exec (.transform x) s = .next { s with out := .bytes (Config.params.transform x) } ∧
    Config.params.transform x = x

/-- STATS_READ (44_system_and_host.md R197): the three counters, and nothing changes. -/
def Obligations.StatsReadHasNoSideEffect : Prop :=
  ∀ s : State, exec .statsRead s = .next { s with out := .stats s.rxc s.fwc s.cec }

/-- RX_BYTE is FEED, then TRANSFORM and MAYBE_FORWARD when a frame is delivered
(44_system_and_host.md R198, R199, 42_payload_transform.md R178): the same effect as presenting the
operations themselves, and no Message for any other event. -/
def Obligations.ReceiveIsFeedTransformForward : Prop :=
  ∀ (s : State) (b : Byte) (g : Sig), DecoderInv s → ∃ u ev,
    exec (.feed b) s = .next u ∧ u.out = .event ev ∧
    ((∃ f v w c o, ev = .frameReady f ∧
        exec (.transform f.payload) u = .next v ∧ v.out = .bytes c ∧
        exec (.maybeForward ⟨c, g⟩) v = .next w ∧ w.out = .outgoing o ∧
        exec (.rxByte b g) s = .next { w with out := .received ev (some ⟨c, g⟩) o }) ∨
     (isFrameReady (some ev) = false ∧
        exec (.rxByte b g) s = .next { u with out := .received ev none none }))

/-- The codes of PHASE and of the events (30_encoding.md R104, R106): pairwise different, and
`ev` = 3 is never produced. -/
def Obligations.CodesOfPhasesAndEvents : Prop :=
  Phase.pre.code = 0 ∧ Phase.hdr.code = 1 ∧ Phase.pay.code = 2 ∧ Phase.crc.code = 3 ∧
  DecoderEvent.pending.code = (0, 0) ∧ (∀ f, (DecoderEvent.frameReady f).code = (1, 0)) ∧
  (DecoderEvent.error .invalidHeaderLength).code = (2, 1) ∧
  (DecoderEvent.error .crcMismatch).code = (2, 2) ∧
  (DecoderEvent.error .bufferOverflow).code = (2, 3) ∧
  (∀ ev : DecoderEvent, ev.code.1 ≠ 3)

/-! ### Streams of bytes -/

/-- No transparency mechanism (30_encoding.md R100, R95): while header body, payload and first
trailer byte are collected, the byte's value decides nothing; only the cell it is stored in
depends on it. -/
def Obligations.CollectedBytesDecideNothing : Prop :=
  ∀ s : State, DecoderInv s → s.len < Config.cap →
    (s.phase = .hdr ∧ s.hcnt ≠ 0) ∨ s.phase = .pay ∨ (s.phase = .crc ∧ s.tcnt = 0) →
    ∃ t : State, ∀ b : Byte, exec (.feed b) s = .next { t with buf := s.buf.write s.len b }

/-- Correct frames decode (40_frame_decoder.md R141): from the reset decoder, with any counters,
every byte of a frame that fits gives Pending but the last, which delivers exactly the payload. -/
def Obligations.CorrectFramesDecode : Prop :=
  ∀ (h f1 : Byte) (fs p : List Byte) (s : State), FrameFits h fs p → DecoderIsReset s →
    feedAll (mkFrame h f1 fs p) s =
      some (List.replicate (h.toNat + p.length + 9) .pending ++
          [.frameReady ⟨h, BitVec.ofNat 16 p.length, p, crc16 (mkBody h f1 fs p)⟩],
        { s with
            rxc := satInc s.rxc
            out := .event (.frameReady
              ⟨h, BitVec.ofNat 16 p.length, p, crc16 (mkBody h f1 fs p)⟩) })

/-- A corrupted trailer (30_encoding.md R98, 40_frame_decoder.md R136, 60_exceptions.md R217,
10_state.md R38): any two bytes that are not the CRC give one CrcMismatch, at the last byte, CEC is
one more over the whole frame (saturating, D9), and the frame, which may have an empty payload (D6),
is discarded. In which FEED the count falls is said by DifferingTrailerIsAMismatch and FeedFrame. -/
def Obligations.CorruptedTrailerIsCountedOnce : Prop :=
  ∀ (h f1 x y : Byte) (fs p : List Byte) (s : State), FrameFits h fs p → DecoderIsReset s →
    be16 x y ≠ crc16 (mkBody h f1 fs p) →
    feedAll (mkBody h f1 fs p ++ [x, y]) s =
      some (List.replicate (h.toNat + p.length + 9) .pending ++ [.error .crcMismatch],
        { s with cec := satInc s.cec, out := .event (.error .crcMismatch) })

/-- An over-long frame (20_memory.md R62, R76, 70_reset_and_hazards.md R260): when the header
declares more than fits, the 513th byte of the frame raises BufferOverflow, whatever the bytes
are, and no counter moves. -/
def Obligations.OverlongFrameOverflowsAtByte513 : Prop :=
  ∀ (h f1 : Byte) (plen : Half) (fs rest : List Byte) (s : State), HeaderLengthLegal h →
    fs.length + 4 = h.toNat → DecoderIsReset s → Config.cap < h.toNat + 10 + plen.toNat →
    (Config.preamble ++ mkHeader h f1 plen fs ++ rest).length = Config.cap + 1 →
    feedAll (Config.preamble ++ mkHeader h f1 plen fs ++ rest) s =
      some (List.replicate Config.cap .pending ++ [.error .bufferOverflow],
        { s with out := .event (.error .bufferOverflow) })

/-- Runs of 0xAA (40_frame_decoder.md R142): from MPOS = 0, every ninth of them is read as a header
length and rejected, and the preamble has just matched exactly when the number is 8 modulo 9. -/
def Obligations.RunOfPreambleBytesLocksOnEight : Prop :=
  ∀ (n : Nat) (s : State), DecoderIsReset s → ∃ evs t,
    feedAll (List.replicate n 0xAA) s = some (evs, t) ∧
    evs = (List.range n).map
      (fun k => if k % 9 = 8 then .error .invalidHeaderLength else .pending) ∧
    (if n % 9 = 8 then t.phase = .hdr ∧ t.hcnt = 0 ∧ t.len = 8
     else t.phase = .pre ∧ t.mpos = n % 9 ∧ t.len = n % 9) ∧
    SameCounters s t

/-- Resynchronisation (40_frame_decoder.md R125, R142, 95_test_vectors.md S6): after any partial
preamble, one byte that is not 0xAA and then a correct frame, the frame is delivered. -/
def Obligations.FrameDecodesAfterAFalseStart : Prop :=
  ∀ (b h f1 : Byte) (fs p : List Byte) (s : State), DecoderInv s → s.phase = .pre → b ≠ 0xAA →
    FrameFits h fs p →
    feedAll (b :: mkFrame h f1 fs p) s =
      some (List.replicate (h.toNat + p.length + 10) .pending ++
          [.frameReady ⟨h, BitVec.ofNat 16 p.length, p, crc16 (mkBody h f1 fs p)⟩],
        { s.fullReset with
            rxc := satInc s.rxc
            out := .event (.frameReady
              ⟨h, BitVec.ofNat 16 p.length, p, crc16 (mkBody h f1 fs p)⟩) })

/-! ### The pluggable stage -/

/-- Any transform can be plugged in without touching the decoder (42_payload_transform.md R177,
R178, D32). Over every record `p`: TRANSFORM returns what its transform gives; the Message of an
RX_BYTE that delivers holds the transform of the payload, taken once, and meets MAYBE_FORWARD, and
any other RX_BYTE is its FEED. Substituting the transform changes no operation but TRANSFORM and
RX_BYTE, and in a step changes no decoder register, neither RXC nor CEC, and no event. The step is
this machine at the block's own record, which carries the default (log 10). -/
def Obligations.AnyTransformCanBePluggedIn : Prop :=
  (∀ (p : Params) (x : List Byte) (s : State),
    execWith p (.transform x) s = .next { s with out := .bytes (p.transform x) }) ∧
  (∀ (p : Params) (b : Byte) (g : Sig) (s : State), DecoderInv s → ∃ u ev,
    execWith p (.feed b) s = .next u ∧ u.out = .event ev ∧
    ((∃ f w o, ev = .frameReady f ∧
        execWith p (.maybeForward ⟨p.transform f.payload, g⟩) u = .next w ∧ w.out = .outgoing o ∧
        execWith p (.rxByte b g) s =
          .next { w with out := .received ev (some ⟨p.transform f.payload, g⟩) o }) ∨
     (isFrameReady (some ev) = false ∧
        execWith p (.rxByte b g) s = .next { u with out := .received ev none none }))) ∧
  (∀ (p : Params) (f : List Byte → List Byte) (i : Instr) (s : State),
    (∀ x, i ≠ .transform x) → (∀ b g, i ≠ .rxByte b g) →
    execWith { p with transform := f } i s = execWith p i s) ∧
  (∀ (p : Params) (f : List Byte → List Byte) (s t : State), stepWith p s = .next t →
    ∃ t', stepWith { p with transform := f } s = .next t' ∧ SameDecoder t t' ∧
      t'.rxc = t.rxc ∧ t'.cec = t.cec ∧ t'.inbox = t.inbox ∧
      decoderEventOf t'.out = decoderEventOf t.out) ∧
  (∀ s : State, step s = stepWith Config.params s)
end

