-- ==== Sys2Proof/Laws/State.lean ====
section
/-! SUPPORT. The fields of a state after each named update: one lemma per field per update. -/

namespace Sys2Proof.Machine

@[simp] theorem State.store_phase (b : Byte) (s : State) : (s.store b).phase = s.phase := rfl
@[simp] theorem State.store_mpos (b : Byte) (s : State) : (s.store b).mpos = s.mpos := rfl
@[simp] theorem State.store_len (b : Byte) (s : State) : (s.store b).len = s.len + 1 := rfl
@[simp] theorem State.store_buf (b : Byte) (s : State) : (s.store b).buf = s.buf.write s.len b := rfl
@[simp] theorem State.store_hlen (b : Byte) (s : State) : (s.store b).hlen = s.hlen := rfl
@[simp] theorem State.store_hcnt (b : Byte) (s : State) : (s.store b).hcnt = s.hcnt := rfl
@[simp] theorem State.store_plen (b : Byte) (s : State) : (s.store b).plen = s.plen := rfl
@[simp] theorem State.store_pcnt (b : Byte) (s : State) : (s.store b).pcnt = s.pcnt := rfl
@[simp] theorem State.store_tcnt (b : Byte) (s : State) : (s.store b).tcnt = s.tcnt := rfl
@[simp] theorem State.store_rxc (b : Byte) (s : State) : (s.store b).rxc = s.rxc := rfl
@[simp] theorem State.store_fwc (b : Byte) (s : State) : (s.store b).fwc = s.fwc := rfl
@[simp] theorem State.store_cec (b : Byte) (s : State) : (s.store b).cec = s.cec := rfl
@[simp] theorem State.store_inbox (b : Byte) (s : State) : (s.store b).inbox = s.inbox := rfl
@[simp] theorem State.store_out (b : Byte) (s : State) : (s.store b).out = s.out := rfl
@[simp] theorem State.store_sent (b : Byte) (s : State) : (s.store b).sent = s.sent := rfl

@[simp] theorem State.fullReset_phase (s : State) : (s.fullReset).phase = .pre := rfl
@[simp] theorem State.fullReset_mpos (s : State) : (s.fullReset).mpos = 0 := rfl
@[simp] theorem State.fullReset_len (s : State) : (s.fullReset).len = 0 := rfl
@[simp] theorem State.fullReset_buf (s : State) : (s.fullReset).buf = [] := rfl
@[simp] theorem State.fullReset_hlen (s : State) : (s.fullReset).hlen = 0 := rfl
@[simp] theorem State.fullReset_hcnt (s : State) : (s.fullReset).hcnt = 0 := rfl
@[simp] theorem State.fullReset_plen (s : State) : (s.fullReset).plen = 0 := rfl
@[simp] theorem State.fullReset_pcnt (s : State) : (s.fullReset).pcnt = 0 := rfl
@[simp] theorem State.fullReset_tcnt (s : State) : (s.fullReset).tcnt = 0 := rfl
@[simp] theorem State.fullReset_rxc (s : State) : (s.fullReset).rxc = s.rxc := rfl
@[simp] theorem State.fullReset_fwc (s : State) : (s.fullReset).fwc = s.fwc := rfl
@[simp] theorem State.fullReset_cec (s : State) : (s.fullReset).cec = s.cec := rfl
@[simp] theorem State.fullReset_inbox (s : State) : (s.fullReset).inbox = s.inbox := rfl
@[simp] theorem State.fullReset_out (s : State) : (s.fullReset).out = s.out := rfl
@[simp] theorem State.fullReset_sent (s : State) : (s.fullReset).sent = s.sent := rfl

@[simp] theorem State.restartMatch_phase (s : State) : (s.restartMatch).phase = s.phase := rfl
@[simp] theorem State.restartMatch_mpos (s : State) : (s.restartMatch).mpos = 0 := rfl
@[simp] theorem State.restartMatch_len (s : State) : (s.restartMatch).len = 0 := rfl
@[simp] theorem State.restartMatch_buf (s : State) : (s.restartMatch).buf = [] := rfl
@[simp] theorem State.restartMatch_hlen (s : State) : (s.restartMatch).hlen = s.hlen := rfl
@[simp] theorem State.restartMatch_hcnt (s : State) : (s.restartMatch).hcnt = s.hcnt := rfl
@[simp] theorem State.restartMatch_plen (s : State) : (s.restartMatch).plen = s.plen := rfl
@[simp] theorem State.restartMatch_pcnt (s : State) : (s.restartMatch).pcnt = s.pcnt := rfl
@[simp] theorem State.restartMatch_tcnt (s : State) : (s.restartMatch).tcnt = s.tcnt := rfl
@[simp] theorem State.restartMatch_rxc (s : State) : (s.restartMatch).rxc = s.rxc := rfl
@[simp] theorem State.restartMatch_fwc (s : State) : (s.restartMatch).fwc = s.fwc := rfl
@[simp] theorem State.restartMatch_cec (s : State) : (s.restartMatch).cec = s.cec := rfl
@[simp] theorem State.restartMatch_inbox (s : State) : (s.restartMatch).inbox = s.inbox := rfl
@[simp] theorem State.restartMatch_out (s : State) : (s.restartMatch).out = s.out := rfl
@[simp] theorem State.restartMatch_sent (s : State) : (s.restartMatch).sent = s.sent := rfl

@[simp] theorem State.clearCounters_phase (s : State) : (s.clearCounters).phase = s.phase := rfl
@[simp] theorem State.clearCounters_mpos (s : State) : (s.clearCounters).mpos = s.mpos := rfl
@[simp] theorem State.clearCounters_len (s : State) : (s.clearCounters).len = s.len := rfl
@[simp] theorem State.clearCounters_buf (s : State) : (s.clearCounters).buf = s.buf := rfl
@[simp] theorem State.clearCounters_hlen (s : State) : (s.clearCounters).hlen = s.hlen := rfl
@[simp] theorem State.clearCounters_hcnt (s : State) : (s.clearCounters).hcnt = s.hcnt := rfl
@[simp] theorem State.clearCounters_plen (s : State) : (s.clearCounters).plen = s.plen := rfl
@[simp] theorem State.clearCounters_pcnt (s : State) : (s.clearCounters).pcnt = s.pcnt := rfl
@[simp] theorem State.clearCounters_tcnt (s : State) : (s.clearCounters).tcnt = s.tcnt := rfl
@[simp] theorem State.clearCounters_rxc (s : State) : (s.clearCounters).rxc = 0 := rfl
@[simp] theorem State.clearCounters_fwc (s : State) : (s.clearCounters).fwc = 0 := rfl
@[simp] theorem State.clearCounters_cec (s : State) : (s.clearCounters).cec = 0 := rfl
@[simp] theorem State.clearCounters_inbox (s : State) : (s.clearCounters).inbox = s.inbox := rfl
@[simp] theorem State.clearCounters_out (s : State) : (s.clearCounters).out = s.out := rfl
@[simp] theorem State.clearCounters_sent (s : State) : (s.clearCounters).sent = s.sent := rfl

@[simp] theorem State.countReceived_phase (s : State) : (s.countReceived).phase = s.phase := rfl
@[simp] theorem State.countReceived_mpos (s : State) : (s.countReceived).mpos = s.mpos := rfl
@[simp] theorem State.countReceived_len (s : State) : (s.countReceived).len = s.len := rfl
@[simp] theorem State.countReceived_buf (s : State) : (s.countReceived).buf = s.buf := rfl
@[simp] theorem State.countReceived_hlen (s : State) : (s.countReceived).hlen = s.hlen := rfl
@[simp] theorem State.countReceived_hcnt (s : State) : (s.countReceived).hcnt = s.hcnt := rfl
@[simp] theorem State.countReceived_plen (s : State) : (s.countReceived).plen = s.plen := rfl
@[simp] theorem State.countReceived_pcnt (s : State) : (s.countReceived).pcnt = s.pcnt := rfl
@[simp] theorem State.countReceived_tcnt (s : State) : (s.countReceived).tcnt = s.tcnt := rfl
@[simp] theorem State.countReceived_rxc (s : State) : (s.countReceived).rxc = satInc s.rxc := rfl
@[simp] theorem State.countReceived_fwc (s : State) : (s.countReceived).fwc = s.fwc := rfl
@[simp] theorem State.countReceived_cec (s : State) : (s.countReceived).cec = s.cec := rfl
@[simp] theorem State.countReceived_inbox (s : State) : (s.countReceived).inbox = s.inbox := rfl
@[simp] theorem State.countReceived_out (s : State) : (s.countReceived).out = s.out := rfl
@[simp] theorem State.countReceived_sent (s : State) : (s.countReceived).sent = s.sent := rfl

@[simp] theorem State.countCrcError_phase (s : State) : (s.countCrcError).phase = s.phase := rfl
@[simp] theorem State.countCrcError_mpos (s : State) : (s.countCrcError).mpos = s.mpos := rfl
@[simp] theorem State.countCrcError_len (s : State) : (s.countCrcError).len = s.len := rfl
@[simp] theorem State.countCrcError_buf (s : State) : (s.countCrcError).buf = s.buf := rfl
@[simp] theorem State.countCrcError_hlen (s : State) : (s.countCrcError).hlen = s.hlen := rfl
@[simp] theorem State.countCrcError_hcnt (s : State) : (s.countCrcError).hcnt = s.hcnt := rfl
@[simp] theorem State.countCrcError_plen (s : State) : (s.countCrcError).plen = s.plen := rfl
@[simp] theorem State.countCrcError_pcnt (s : State) : (s.countCrcError).pcnt = s.pcnt := rfl
@[simp] theorem State.countCrcError_tcnt (s : State) : (s.countCrcError).tcnt = s.tcnt := rfl
@[simp] theorem State.countCrcError_rxc (s : State) : (s.countCrcError).rxc = s.rxc := rfl
@[simp] theorem State.countCrcError_fwc (s : State) : (s.countCrcError).fwc = s.fwc := rfl
@[simp] theorem State.countCrcError_cec (s : State) : (s.countCrcError).cec = satInc s.cec := rfl
@[simp] theorem State.countCrcError_inbox (s : State) : (s.countCrcError).inbox = s.inbox := rfl
@[simp] theorem State.countCrcError_out (s : State) : (s.countCrcError).out = s.out := rfl
@[simp] theorem State.countCrcError_sent (s : State) : (s.countCrcError).sent = s.sent := rfl

@[simp] theorem State.countForward_phase (s : State) : (s.countForward).phase = s.phase := rfl
@[simp] theorem State.countForward_mpos (s : State) : (s.countForward).mpos = s.mpos := rfl
@[simp] theorem State.countForward_len (s : State) : (s.countForward).len = s.len := rfl
@[simp] theorem State.countForward_buf (s : State) : (s.countForward).buf = s.buf := rfl
@[simp] theorem State.countForward_hlen (s : State) : (s.countForward).hlen = s.hlen := rfl
@[simp] theorem State.countForward_hcnt (s : State) : (s.countForward).hcnt = s.hcnt := rfl
@[simp] theorem State.countForward_plen (s : State) : (s.countForward).plen = s.plen := rfl
@[simp] theorem State.countForward_pcnt (s : State) : (s.countForward).pcnt = s.pcnt := rfl
@[simp] theorem State.countForward_tcnt (s : State) : (s.countForward).tcnt = s.tcnt := rfl
@[simp] theorem State.countForward_rxc (s : State) : (s.countForward).rxc = s.rxc := rfl
@[simp] theorem State.countForward_fwc (s : State) : (s.countForward).fwc = s.fwc + 1 := rfl
@[simp] theorem State.countForward_cec (s : State) : (s.countForward).cec = s.cec := rfl
@[simp] theorem State.countForward_inbox (s : State) : (s.countForward).inbox = s.inbox := rfl
@[simp] theorem State.countForward_out (s : State) : (s.countForward).out = s.out := rfl
@[simp] theorem State.countForward_sent (s : State) : (s.countForward).sent = s.sent := rfl

@[simp] theorem State.handToSend_phase (o : List Byte) (s : State) : (s.handToSend o).phase = s.phase := rfl
@[simp] theorem State.handToSend_mpos (o : List Byte) (s : State) : (s.handToSend o).mpos = s.mpos := rfl
@[simp] theorem State.handToSend_len (o : List Byte) (s : State) : (s.handToSend o).len = s.len := rfl
@[simp] theorem State.handToSend_buf (o : List Byte) (s : State) : (s.handToSend o).buf = s.buf := rfl
@[simp] theorem State.handToSend_hlen (o : List Byte) (s : State) : (s.handToSend o).hlen = s.hlen := rfl
@[simp] theorem State.handToSend_hcnt (o : List Byte) (s : State) : (s.handToSend o).hcnt = s.hcnt := rfl
@[simp] theorem State.handToSend_plen (o : List Byte) (s : State) : (s.handToSend o).plen = s.plen := rfl
@[simp] theorem State.handToSend_pcnt (o : List Byte) (s : State) : (s.handToSend o).pcnt = s.pcnt := rfl
@[simp] theorem State.handToSend_tcnt (o : List Byte) (s : State) : (s.handToSend o).tcnt = s.tcnt := rfl
@[simp] theorem State.handToSend_rxc (o : List Byte) (s : State) : (s.handToSend o).rxc = s.rxc := rfl
@[simp] theorem State.handToSend_fwc (o : List Byte) (s : State) : (s.handToSend o).fwc = s.fwc := rfl
@[simp] theorem State.handToSend_cec (o : List Byte) (s : State) : (s.handToSend o).cec = s.cec := rfl
@[simp] theorem State.handToSend_inbox (o : List Byte) (s : State) : (s.handToSend o).inbox = s.inbox := rfl
@[simp] theorem State.handToSend_out (o : List Byte) (s : State) : (s.handToSend o).out = s.out := rfl
@[simp] theorem State.handToSend_sent (o : List Byte) (s : State) : (s.handToSend o).sent = s.sent ++ [o] := rfl

@[simp] theorem State.returning_phase (o : Output) (s : State) : (s.returning o).phase = s.phase := rfl
@[simp] theorem State.returning_mpos (o : Output) (s : State) : (s.returning o).mpos = s.mpos := rfl
@[simp] theorem State.returning_len (o : Output) (s : State) : (s.returning o).len = s.len := rfl
@[simp] theorem State.returning_buf (o : Output) (s : State) : (s.returning o).buf = s.buf := rfl
@[simp] theorem State.returning_hlen (o : Output) (s : State) : (s.returning o).hlen = s.hlen := rfl
@[simp] theorem State.returning_hcnt (o : Output) (s : State) : (s.returning o).hcnt = s.hcnt := rfl
@[simp] theorem State.returning_plen (o : Output) (s : State) : (s.returning o).plen = s.plen := rfl
@[simp] theorem State.returning_pcnt (o : Output) (s : State) : (s.returning o).pcnt = s.pcnt := rfl
@[simp] theorem State.returning_tcnt (o : Output) (s : State) : (s.returning o).tcnt = s.tcnt := rfl
@[simp] theorem State.returning_rxc (o : Output) (s : State) : (s.returning o).rxc = s.rxc := rfl
@[simp] theorem State.returning_fwc (o : Output) (s : State) : (s.returning o).fwc = s.fwc := rfl
@[simp] theorem State.returning_cec (o : Output) (s : State) : (s.returning o).cec = s.cec := rfl
@[simp] theorem State.returning_inbox (o : Output) (s : State) : (s.returning o).inbox = s.inbox := rfl
@[simp] theorem State.returning_out (o : Output) (s : State) : (s.returning o).out = o := rfl
@[simp] theorem State.returning_sent (o : Output) (s : State) : (s.returning o).sent = s.sent := rfl

end Sys2Proof.Machine
end

