-- ==== Sys2Proof/Laws/Memory.lean ====
section
/-! SUPPORT. The cells of BUF: reading what was written, the canonical form and that every
operation keeps it, and the buffer as the sequence of its first LEN bytes (10_state.md R23). -/

namespace Sys2Proof.Machine

/-! The constants of the record as numerals, for arithmetic. -/

@[simp] theorem Config_cap : Config.cap = 512 := rfl
@[simp] theorem Config_preLen : Config.preLen = 8 := rfl
@[simp] theorem Config_hlenMin : Config.hlenMin = 20 := rfl
@[simp] theorem Config_hlenMax : Config.hlenMax = 30 := rfl
@[simp] theorem Config_plenOff : Config.plenOff = 2 := rfl
@[simp] theorem Config_trlLen : Config.trlLen = 2 := rfl

/-- The constraints of 00_scope.md R8 hold; its third, MAX_HOPS < 2^CNT_W, is the type of
`Params.maxHops`. -/
theorem config_constraints :
    Config.preLen + Config.hlenMax + Config.trlLen ≤ Config.cap ∧
      Config.plenOff + 1 < Config.hlenMin := by decide

@[simp] theorem Memory.read_nil (a : Nat) : Memory.read [] a = none := rfl

theorem Memory.read_cons (c : Host.Cell) (m : Memory) (a : Nat) :
    Memory.read (c :: m) a = if c.1 = a then some c.2 else Memory.read m a := rfl

theorem Memory.read_write_same (m : Memory) (a : Nat) (v : Byte) :
    (m.write a v).read a = some v := by
  induction m with
  | nil => simp [Memory.write, Memory.read]
  | cons c rest ih =>
    simp only [Memory.write]
    split
    · simp [Memory.read]
    · split
      · simp [Memory.read]
      · simp [Memory.read, *]

theorem Memory.read_write_other (m : Memory) (a k : Nat) (v : Byte) (h : k ≠ a) :
    (m.write a v).read k = m.read k := by
  induction m with
  | nil => simp [Memory.write, Memory.read, Ne.symm h, Memory.unlisted]
  | cons c rest ih =>
    simp only [Memory.write]
    split
    · simp [Memory.read, Ne.symm h]
    · split
      · rename_i h1 h2
        subst h2
        simp [Memory.read, Ne.symm h]
      · simp [Memory.read, ih]

theorem Memory.write_ne_nil (m : Memory) (a : Nat) (v : Byte) : m.write a v ≠ [] := by
  cases m with
  | nil => simp [Memory.write]
  | cons c rest => simp only [Memory.write]; split <;> (try split) <;> simp

/-- The canonical order, said of head and tail. -/
theorem Memory.rising_cons (c : Host.Cell) (m : Memory) :
    Memory.rising (c :: m) = true ↔ (∀ d ∈ m, c.1 < d.1) ∧ m.rising = true := by
  induction m generalizing c with
  | nil => simp [Memory.rising]
  | cons d rest ih =>
    simp only [Memory.rising, Bool.and_eq_true, decide_eq_true_eq, List.mem_cons]
    constructor
    · rintro ⟨h, hr⟩
      refine ⟨?_, hr⟩
      rintro e (rfl | he)
      · exact h
      · exact Nat.lt_trans h (((ih d).mp hr).1 e he)
    · rintro ⟨h, hr⟩
      exact ⟨h d (Or.inl rfl), hr⟩

theorem Memory.mem_write {m : Memory} {a : Nat} {v : Byte} {d : Host.Cell}
    (h : d ∈ m.write a v) : d = (a, v) ∨ d ∈ m := by
  induction m with
  | nil => simpa [Memory.write] using h
  | cons c rest ih =>
    simp only [Memory.write] at h
    split at h
    · simpa using h
    · split at h
      · rcases List.mem_cons.mp h with h | h
        · exact .inl h
        · exact .inr (List.mem_cons_of_mem _ h)
      · rcases List.mem_cons.mp h with h | h
        · exact .inr (h ▸ List.mem_cons_self)
        · exact (ih h).imp_right (List.mem_cons_of_mem _)

theorem Memory.write_keeps_rising {m : Memory} (a : Nat) (v : Byte) (h : m.rising = true) :
    (m.write a v).rising = true := by
  induction m with
  | nil => rfl
  | cons c rest ih =>
    obtain ⟨hc, hr⟩ := (Memory.rising_cons c rest).mp h
    simp only [Memory.write]
    split
    · rename_i hlt
      refine (Memory.rising_cons _ _).mpr ⟨?_, h⟩
      intro d hd
      rcases List.mem_cons.mp hd with rfl | hd
      · exact hlt
      · exact Nat.lt_trans hlt (hc d hd)
    · split
      · rename_i heq
        subst heq
        exact (Memory.rising_cons _ _).mpr ⟨hc, hr⟩
      · refine (Memory.rising_cons _ _).mpr ⟨?_, ih hr⟩
        intro d hd
        rcases Memory.mem_write hd with rfl | hd
        · simp only; omega
        · exact hc d hd

/-- A write below CAP keeps the canonical form. -/
theorem Memory.write_keeps_wf {m : Memory} {a : Nat} (v : Byte) (h : m.wf = true)
    (ha : a < Config.cap) : (m.write a v).wf = true := by
  simp only [Memory.wf, Bool.and_eq_true, List.all_eq_true, decide_eq_true_eq] at h ⊢
  refine ⟨Memory.write_keeps_rising a v h.1, fun d hd => ?_⟩
  rcases Memory.mem_write hd with rfl | hd
  · exact ha
  · exact h.2 d hd

/-- The empty buffer is canonical. -/
theorem Memory.nil_wf : Memory.wf [] = true := rfl

/-- The buffer after RESET is canonical. -/
theorem reset_buf_wf : State.reset.buf.wf = true := rfl

/-- Every update that touches BUF keeps its canonical form. -/
theorem store_keeps_wf {s : State} (b : Byte) (h : s.buf.wf = true) (hl : s.len < Config.cap) :
    (s.store b).buf.wf = true := Memory.write_keeps_wf b h hl

theorem fullReset_wf (s : State) : s.fullReset.buf.wf = true := rfl

theorem restartMatch_wf (s : State) : s.restartMatch.buf.wf = true := rfl

/-- Cell `a` of the buffer that holds the bytes `xs`, from index `k` on. -/
theorem Memory.read_zip_range' (xs : List Byte) (k a : Nat) :
    Memory.read ((List.range' k xs.length).zip xs) (k + a) = xs[a]? := by
  induction xs generalizing k a with
  | nil => simp
  | cons x xs ih =>
    simp only [List.length_cons, List.range'_succ, List.zip_cons_cons, Memory.read_cons]
    cases a with
    | zero => simp
    | succ a =>
      rw [if_neg (by omega), show k + (a + 1) = k + 1 + a by omega, ih]
      simp

theorem Memory.read_ofBytes (xs : List Byte) (a : Nat) :
    (Memory.ofBytes xs).read a = xs[a]? := by
  have h := Memory.read_zip_range' xs 0 a
  simpa [Memory.ofBytes, List.range_eq_range'] using h

theorem Memory.write_zip_range' (xs : List Byte) (k : Nat) (b : Byte) :
    Memory.write ((List.range' k xs.length).zip xs) (k + xs.length) b =
      (List.range' k (xs ++ [b]).length).zip (xs ++ [b]) := by
  induction xs generalizing k with
  | nil => simp [Memory.write]
  | cons x xs ih =>
    have h := ih (k + 1)
    rw [show k + 1 + xs.length = k + (xs.length + 1) by omega] at h
    simp only [List.length_append, List.length_cons, List.length_nil] at h
    simp only [List.cons_append, List.length_cons, List.range'_succ, List.zip_cons_cons,
      Memory.write, List.length_append, List.length_nil]
    rw [if_neg (by omega), if_neg (by omega), h]
    simp [List.range'_succ]

/-- Appending at index LEN appends to the sequence. -/
theorem Memory.write_ofBytes (xs : List Byte) (b : Byte) :
    (Memory.ofBytes xs).write xs.length b = Memory.ofBytes (xs ++ [b]) := by
  have h := Memory.write_zip_range' xs 0 b
  simpa only [Memory.ofBytes, List.range_eq_range', Nat.zero_add] using h

@[simp] theorem Memory.ofBytes_nil : Memory.ofBytes [] = [] := rfl

/-- A run of cells of the sequence. -/
theorem Memory.readSeq_ofBytes (xs : List Byte) (i n : Nat) (h : i + n ≤ xs.length) :
    (Memory.ofBytes xs).readSeq i n = some ((xs.drop i).take n) := by
  induction n generalizing i with
  | zero => simp [Memory.readSeq]
  | succ n ih =>
    have hi : i < xs.length := by omega
    simp only [Memory.readSeq, Memory.read_ofBytes, ih (i + 1) (by omega),
      List.getElem?_eq_getElem hi]
    rw [List.drop_eq_getElem_cons hi, List.take_succ_cons]

/-- A buffer whose cells are 0 to n - 1 is the sequence of its bytes. -/
theorem Memory.eq_ofBytes {m : Memory} {n : Nat} (h : m.map Prod.fst = List.range n) :
    m = Memory.ofBytes (m.map Prod.snd) ∧ (m.map Prod.snd).length = n := by
  have hl : m.length = n := by simpa using congrArg List.length h
  refine ⟨?_, by simpa using hl⟩
  simp only [Memory.ofBytes, List.length_map, hl]
  rw [← h]
  exact List.zip_of_prod rfl rfl

/-- A filled buffer is a sequence of LEN bytes (R23). -/
theorem exists_ofBytes {s : State} (h : s.buf.map Prod.fst = List.range s.len) :
    ∃ xs, s.buf = Memory.ofBytes xs ∧ s.len = xs.length :=
  ⟨s.buf.map Prod.snd, (Memory.eq_ofBytes h).1, (Memory.eq_ofBytes h).2.symm⟩

theorem Memory.ofBytes_keys (xs : List Byte) :
    (Memory.ofBytes xs).map Prod.fst = List.range xs.length := by
  simp [Memory.ofBytes, List.map_fst_zip]

/-- A filled buffer is canonical. -/
theorem Memory.ofBytes_wf (xs : List Byte) (h : xs.length ≤ Config.cap) :
    (Memory.ofBytes xs).wf = true := by
  suffices hr : ∀ ys : List Byte, ys.length ≤ Config.cap →
      (Memory.ofBytes ys.reverse).wf = true by
    simpa using hr xs.reverse (by simpa using h)
  intro ys
  induction ys with
  | nil => intro _; rfl
  | cons b ys ih =>
    intro hy
    rw [List.length_cons] at hy
    rw [List.reverse_cons, ← Memory.write_ofBytes]
    exact Memory.write_keeps_wf b (ih (by omega)) (by simp only [List.length_reverse]; omega)

/-- A cell below LEN, of a state whose buffer is a sequence. -/
theorem memByte_ofBytes {s : State} {xs : List Byte} (hb : s.buf = Memory.ofBytes xs)
    (hl : s.len = xs.length) (i : Nat) : memByte s i = xs[i]? := by
  unfold memByte
  split
  · rw [hb, Memory.read_ofBytes]
  · rw [List.getElem?_eq_none (by omega)]

/-- A slice below LEN, of a state whose buffer is a sequence. -/
theorem memSlice_ofBytes {s : State} {xs : List Byte} (hb : s.buf = Memory.ofBytes xs)
    (hl : s.len = xs.length) {i n : Nat} (h : i + n ≤ s.len) :
    memSlice s i n = some ((xs.drop i).take n) := by
  rw [memSlice, if_pos h, hb, Memory.readSeq_ofBytes xs i n (by omega)]

/-- A cell other than the one stored to reads as before; the one stored to reads the byte. -/
theorem memByte_store_below {s : State} {i : Nat} (b : Byte) (h : i < s.len) :
    memByte (s.store b) i = memByte s i := by
  simp [memByte, h, Nat.lt_succ_of_lt h, Memory.read_write_other _ _ _ _ (Nat.ne_of_lt h)]

theorem memByte_store_at (s : State) (b : Byte) : memByte (s.store b) s.len = some b := by
  simp [memByte, Memory.read_write_same]

theorem readSeq_write_above (m : Memory) (a : Nat) (b : Byte) (i n : Nat) (h : i + n ≤ a) :
    (m.write a b).readSeq i n = m.readSeq i n := by
  induction n generalizing i with
  | zero => rfl
  | succ n ih =>
    simp only [Memory.readSeq]
    rw [Memory.read_write_other _ _ _ _ (by omega), ih (i + 1) (by omega)]

theorem memSlice_store_below {s : State} {i n : Nat} (b : Byte) (h : i + n ≤ s.len) :
    memSlice (s.store b) i n = memSlice s i n := by
  have h' : i + n ≤ s.len + 1 := by omega
  simp [memSlice, h, h', readSeq_write_above _ _ _ _ _ h]

/-- `be16` is the high byte times 256 plus the low byte (30_encoding.md R94). -/
theorem be16_toNat (hi lo : Byte) : (be16 hi lo).toNat = hi.toNat * 256 + lo.toNat := by
  have h1 := hi.isLt
  have h2 := lo.isLt
  have h3 : (hi.toNat <<< 8) % 65536 = hi.toNat * 256 := by
    rw [Nat.shiftLeft_eq, Nat.mod_eq_of_lt (by omega)]
  simp only [be16, BitVec.toNat_or, BitVec.toNat_shiftLeft, BitVec.toNat_setWidth]
  rw [Nat.mod_eq_of_lt (show hi.toNat < 2 ^ 16 by omega),
    Nat.mod_eq_of_lt (show lo.toNat < 2 ^ 16 by omega), h3]
  have h4 := Nat.two_pow_add_eq_or_of_lt (i := 8) h2 hi.toNat
  rw [Nat.mul_comm hi.toNat 256]
  exact h4.symm

/-- `be16` of the two bytes of a value is the value. -/
theorem be16_hiByte_loByte (v : Half) : be16 (hiByte v) (loByte v) = v := by
  apply BitVec.eq_of_toNat_eq
  have h := v.isLt
  rw [be16_toNat]
  simp only [hiByte, loByte, BitVec.extractLsb'_toNat, Nat.shiftRight_eq_div_pow]
  omega

end Sys2Proof.Machine
end

