-- ==== Sys2Proof/Laws/Decoder.lean ====
section
/-! SUPPORT. What the shared operations of the decoder can do, said once each: BufAppend, `raise`,
FullReset, the header's completion, the trailer's verdict, and FEED as a whole. -/

namespace Sys2Proof.Machine

/-- `BufAppend` either raises, exactly when LEN has reached CAP, or stores the byte at index LEN. -/
theorem bufAppend_cases (b : Byte) (s : State) :
    (Config.cap ≤ s.len ∧ bufAppend b s = none) ∨
    (s.len < Config.cap ∧ bufAppend b s = some (s.store b)) := by
  unfold bufAppend
  split
  · exact .inl ⟨‹_›, rfl⟩
  · exact .inr ⟨by omega, rfl⟩

theorem afterAppend_room {b : Byte} {s : State} (h : s.len < Config.cap) (k : State → Fed) :
    afterAppend b s k = k (s.store b) := by
  simp [afterAppend, bufAppend, Nat.not_le.mpr h]

theorem afterAppend_full {b : Byte} {s : State} (h : Config.cap ≤ s.len) (k : State → Fed) :
    afterAppend b s k = .ok (raiseError .bufferOverflow s) := by
  simp [afterAppend, bufAppend, h]

/-- `satInc` never lets a counter decrease. -/
theorem le_satInc (c : Count) : c ≤ satInc c := by
  unfold satInc
  split
  · exact BitVec.le_refl c
  · rename_i h
    have hc : c.toNat ≠ 4294967295 := fun he => h (BitVec.eq_of_toNat_eq (by simp [he]))
    have := c.isLt
    have h1 : (1 : Count).toNat = 1 := rfl
    rw [BitVec.le_def, BitVec.toNat_add, h1]
    omega

/-- FullReset leaves the decoder in its reset state and nothing else changed. -/
theorem fullReset_isReset (s : State) : DecoderIsReset s.fullReset :=
  ⟨rfl, rfl, rfl, rfl, rfl, rfl, rfl, rfl, rfl⟩

/-- What an error leaves: the reset decoder, and one count when it is a CRC mismatch (R222). -/
theorem raiseError_eq (k : ErrorKind) (s : State) :
    raiseError k s =
      ({ s.fullReset with cec := if k = .crcMismatch then satInc s.cec else s.cec }, .error k) := by
  cases k <;> rfl

/-- An error forgets what the append and the counting of the same FEED did to the decoder. -/
theorem raiseError_store (k : ErrorKind) (b : Byte) (s : State) (n : Nat) :
    raiseError k { s.store b with tcnt := n } = raiseError k s := by
  cases k <;> rfl

/-- The effects of a FEED on everything but its event's value: one of four. -/
inductive FeedEffect (b : Byte) (s : State) : State → DecoderEvent → Prop where
  /-- the match restart of R125 -/
  | restart : s.phase = .pre → FeedEffect b s s.restartMatch .pending
  /-- the byte is stored at index LEN; only decoder registers change beside it -/
  | stored (ph : Phase) (mp hc pc tc : Nat) (hl : Byte) (pl : Half) :
      s.len < Config.cap →
      FeedEffect b s { s.store b with phase := ph, mpos := mp, hlen := hl, hcnt := hc, plen := pl,
                                      pcnt := pc, tcnt := tc } .pending
  /-- an error is raised (R222) -/
  | raised (k : ErrorKind) : FeedEffect b s (raiseError k s).1 (.error k)
  /-- a frame is delivered (R135) -/
  | delivered (f : Frame) : s.phase = .crc → s.len < Config.cap →
      FeedEffect b s s.countReceived.fullReset (.frameReady f)

/-- An append that raises has the effect of an error. -/
theorem FeedEffect.of_full {b : Byte} {s t : State} {ev : DecoderEvent} (k : State → Fed)
    (hs : Config.cap ≤ s.len) (h : afterAppend b s k = .ok (t, ev)) : FeedEffect b s t ev := by
  rw [afterAppend_full hs] at h
  cases h
  exact .raised .bufferOverflow

theorem feedPre_effect {b : Byte} {s t : State} {ev : DecoderEvent} (hp : s.phase = .pre)
    (h : feedPre b s = .ok (t, ev)) : FeedEffect b s t ev := by
  unfold feedPre at h
  split at h
  · rcases Nat.lt_or_ge s.len Config.cap with hl | hl
    · rw [afterAppend_room hl] at h
      split at h <;> cases h
      · exact .stored .hdr 0 s.hcnt s.pcnt s.tcnt s.hlen s.plen hl
      · exact .stored s.phase (s.mpos + 1) s.hcnt s.pcnt s.tcnt s.hlen s.plen hl
    · exact .of_full _ hl h
  · cases h
    exact .restart hp

theorem headerComplete_effect {b : Byte} {s t : State} {ev : DecoderEvent} (n : Nat)
    (hl : s.len < Config.cap)
    (h : headerComplete { s.store b with hcnt := n } = .ok (t, ev)) : FeedEffect b s t ev := by
  unfold headerComplete at h
  split at h <;> cases h
  exact .stored _ s.mpos n s.pcnt s.tcnt s.hlen _ hl

theorem feedHdr_effect {b : Byte} {s t : State} {ev : DecoderEvent}
    (h : feedHdr b s = .ok (t, ev)) : FeedEffect b s t ev := by
  unfold feedHdr at h
  split at h
  · split at h
    · cases h
      exact .raised .invalidHeaderLength
    · rcases Nat.lt_or_ge s.len Config.cap with hl | hl
      · rw [afterAppend_room (by exact hl)] at h
        cases h
        exact .stored s.phase s.mpos 1 s.pcnt s.tcnt b s.plen hl
      · rw [afterAppend_full (by exact hl)] at h
        cases h
        exact .raised .bufferOverflow
  · rcases Nat.lt_or_ge s.len Config.cap with hl | hl
    · rw [afterAppend_room hl] at h
      split at h
      · exact headerComplete_effect _ hl h
      · cases h
        exact .stored s.phase s.mpos (s.hcnt + 1) s.pcnt s.tcnt s.hlen s.plen hl
    · exact .of_full _ hl h

theorem feedPay_effect {b : Byte} {s t : State} {ev : DecoderEvent}
    (h : feedPay b s = .ok (t, ev)) : FeedEffect b s t ev := by
  unfold feedPay at h
  rcases Nat.lt_or_ge s.len Config.cap with hl | hl
  · rw [afterAppend_room hl] at h
    split at h <;> cases h
    · exact .stored .crc s.mpos s.hcnt (s.pcnt + 1) s.tcnt s.hlen s.plen hl
    · exact .stored s.phase s.mpos s.hcnt (s.pcnt + 1) s.tcnt s.hlen s.plen hl
  · exact .of_full _ hl h

theorem judgeTrailer_effect {b : Byte} {s t : State} {ev : DecoderEvent} (n : Nat)
    (hp : s.phase = .crc) (hl : s.len < Config.cap)
    (h : judgeTrailer { s.store b with tcnt := n } = .ok (t, ev)) : FeedEffect b s t ev := by
  unfold judgeTrailer at h
  split at h
  · split at h
    · split at h <;> cases h
      exact .delivered _ hp hl
    · rw [raiseError_store] at h
      cases h
      exact .raised .crcMismatch
  · cases h

theorem feedCrc_effect {b : Byte} {s t : State} {ev : DecoderEvent} (hp : s.phase = .crc)
    (h : feedCrc b s = .ok (t, ev)) : FeedEffect b s t ev := by
  unfold feedCrc at h
  rcases Nat.lt_or_ge s.len Config.cap with hl | hl
  · rw [afterAppend_room hl] at h
    split at h
    · cases h
      exact .stored s.phase s.mpos s.hcnt s.pcnt (s.tcnt + 1) s.hlen s.plen hl
    · exact judgeTrailer_effect _ hp hl h
  · exact .of_full _ hl h

/-- Everything a FEED can do to the state (R120 to R139). -/
theorem feed_effect {b : Byte} {s t : State} {ev : DecoderEvent} (h : feed b s = .ok (t, ev)) :
    FeedEffect b s t ev := by
  unfold feed at h
  split at h
  · exact feedPre_effect ‹_› h
  · exact feedHdr_effect h
  · exact feedPay_effect h
  · exact feedCrc_effect ‹_› h

/-- A FEED answers a next state exactly when its reads are defined. -/
theorem execFeed_next {b : Byte} {s u : State} (h : exec (.feed b) s = .next u) :
    ∃ t ev, feed b s = .ok (t, ev) ∧ u = t.returning (.event ev) := by
  simp only [exec, execFeed, feedOutcome] at h
  split at h
  · rename_i r hr
    cases h
    exact ⟨r.1, r.2, hr, rfl⟩
  · cases h

theorem execFeed_of_feed {b : Byte} {s t : State} {ev : DecoderEvent}
    (h : feed b s = .ok (t, ev)) : exec (.feed b) s = .next (t.returning (.event ev)) := by
  simp [exec, execFeed, feedOutcome, h]

/-- A row that is selected runs its own rule; one that is not runs FEED. -/
theorem rowOrFeed_selected {c : Prop} [Decidable c] (h : c) (rule : Fed) (b : Byte) (s : State) :
    rowOrFeed (decide c) rule b s = feedOutcome rule := by
  simp [rowOrFeed, h]

theorem rowOrFeed_not {c : Prop} [Decidable c] (h : ¬ c) (rule : Fed) (b : Byte) (s : State) :
    rowOrFeed (decide c) rule b s = feedOutcome (feed b s) := by
  simp [rowOrFeed, h]

/-- Feeding no byte, one byte, and one sequence after another. -/
@[simp] theorem feedAll_nil (s : State) : feedAll [] s = some ([], s) := rfl

theorem feedAll_append {xs : List Byte} {s t : State} {es : List DecoderEvent} (ys : List Byte)
    (h : feedAll xs s = some (es, t)) :
    feedAll (xs ++ ys) s = (feedAll ys t).map fun r => (es ++ r.1, r.2) := by
  induction xs generalizing s es with
  | nil =>
    simp only [feedAll_nil, Option.some.injEq, Prod.mk.injEq] at h
    obtain ⟨rfl, rfl⟩ := h
    simp
  | cons x xs ih =>
    simp only [feedAll, List.cons_append] at h ⊢
    split at h <;> try contradiction
    split at h <;> try contradiction
    rename_i h1 h2
    cases h
    rw [h1, ih h2]
    cases feedAll ys t <;> rfl

theorem feedAll_one {b : Byte} {s t : State} {ev : DecoderEvent} (h : feed b s = .ok (t, ev)) :
    feedAll [b] s = some ([ev], t.returning (.event ev)) := by
  simp [feedAll, execFeed_of_feed h, eventOf]

theorem feedAll_cons {b : Byte} {s t : State} {ev : DecoderEvent} (bs : List Byte)
    (h : feed b s = .ok (t, ev)) :
    feedAll (b :: bs) s =
      (feedAll bs (t.returning (.event ev))).map fun r => (ev :: r.1, r.2) :=
  feedAll_append bs (feedAll_one h)

/-- All that taking the next operation can do when it answers a next state. -/
theorem takeNext_cases {run : Instr → State → Host.Outcome State Fault Refusal} {s t : State}
    (h : takeNext run s = .next t) :
    (s.inbox = [] ∧ t = s) ∨
    (∃ r rest i, s.inbox = r :: rest ∧ decode r = .ok i ∧
      run i { s with inbox := rest } = .next t) := by
  unfold takeNext at h
  split at h
  · cases h
    exact .inl ⟨‹_›, rfl⟩
  · split at h
    · exact .inr ⟨_, _, _, ‹_›, ‹_›, h⟩
    · cases h

/-- An operation that decodes is performed. -/
theorem takeNext_run {run : Instr → State → Host.Outcome State Fault Refusal} {s : State}
    {r : Request} {rest : List Request} {i : Instr} (h : s.inbox = r :: rest)
    (hd : decode r = .ok i) : takeNext run s = run i { s with inbox := rest } := by
  simp [takeNext, h, hd]

/-- The step, split by what the host presents. -/
theorem step_idle {s : State} (h : s.inbox = []) : step s = .next s := by
  simp [step, takeNext, h]

theorem step_refused {s : State} {r : Request} {rest : List Request} {e : DecodeError}
    (h : s.inbox = r :: rest) (hd : decode r = .error e) : step s = .refused .undefinedWord := by
  simp [step, takeNext, h, hd]

end Sys2Proof.Machine
end

