-- ==== Sys2Proof/Laws/Forward.lean ====
section
/-! SUPPORT. What the Forward Controller and the receive pipeline can do, said once each. -/

namespace Sys2Proof.Machine

/-- MAYBE_FORWARD forwards or does nothing (R180 to R183). -/
theorem maybeForward_cases (p : Params) (m : Message) (s : State) :
    (ForwardOk p s m ∧
      maybeForward p m s =
        ({ s with fwc := s.fwc + 1,
                  sent := s.sent ++ [p.rewrite (s.fwc.toNat + 1) ++ m.content] },
         some (p.rewrite (s.fwc.toNat + 1) ++ m.content))) ∨
    (¬ ForwardOk p s m ∧ maybeForward p m s = (s, none)) := by
  unfold maybeForward
  split
  · exact .inl ⟨‹_›, rfl⟩
  · exact .inr ⟨‹_›, rfl⟩

/-- The two rows of MAYBE_FORWARD are MAYBE_FORWARD. -/
theorem rowOrForward_fwd (p : Params) (m : Message) (s : State) :
    rowOrForward (decide (ForwardOk p s m)) (forwardCase p m s) p m s =
      forwardOutcome (maybeForward p m s) := by
  by_cases h : ForwardOk p s m
  · rw [rowOrForward, maybeForward, if_pos h, decide_eq_true h, if_pos rfl]
  · rw [rowOrForward, decide_eq_false h]
    rfl

theorem rowOrForward_none (p : Params) (m : Message) (s : State) :
    rowOrForward (!decide (ForwardOk p s m)) (noForwardCase s) p m s =
      forwardOutcome (maybeForward p m s) := by
  by_cases h : ForwardOk p s m
  · rw [rowOrForward, decide_eq_true h]
    rfl
  · rw [rowOrForward, maybeForward, if_neg h, decide_eq_false h]
    rfl

/-- What RX_BYTE leaves of the decoder and of the counters RXC and CEC is what its FEED leaves. -/
theorem deliver_keeps (p : Params) (g : Sig) (r : State × DecoderEvent) :
    SameDecoder r.1 (deliver p g r) ∧ (deliver p g r).rxc = r.1.rxc ∧
      (deliver p g r).cec = r.1.cec ∧ (deliver p g r).inbox = r.1.inbox := by
  obtain ⟨s, ev⟩ := r
  cases ev with
  | pending => simp [deliver, SameDecoder]
  | error k => simp [deliver, SameDecoder]
  | frameReady f =>
    rcases maybeForward_cases p ⟨p.transform f.payload, g⟩ s with ⟨_, h⟩ | ⟨_, h⟩ <;>
      simp [deliver, SameDecoder, h]

/-- RX_BYTE answers a next state exactly when its FEED does. -/
theorem receiveByte_next {p : Params} {b : Byte} {g : Sig} {s u : State}
    (h : receiveByte p b g s = .next u) : ∃ r, feed b s = .ok r ∧ u = deliver p g r := by
  simp only [receiveByte] at h
  split at h
  · cases h
    exact ⟨_, ‹_›, rfl⟩
  · cases h

/-- The block is the machine over its own record: `exec` runs `execWith` at `Config.params`. -/
theorem execWith_params (i : Instr) (s : State) : execWith Config.params i s = exec i s := by
  cases i <;> rfl

end Sys2Proof.Machine
end

