-- ==== Sys2Proof/Laws/PerInstr.lean ====
section
/-! SUPPORT. Statements about every instruction as syntax: the word of a well-formed instruction
selects its own row of spec/opcode_table.json, (word and mask) = match (30_encoding.md R102). -/

namespace Sys2Proof.Laws.RowSelectsWord

/-- The word of `i` matches the row of `i`. -/
def Statement (i : Instr) : Prop :=
  i.wellFormed = true → (encode i).word &&& i.rowMask = i.rowBits

theorem feedWord (b : Byte) : opWord 0x1 b &&& 0xF00 = 0x100 := by
  revert b; decide

theorem rxWord (b : Byte) : opWord 0x7 b &&& 0xF00 = 0x700 := by
  revert b; decide

theorem reservedWord (op : OpCode) (b : Byte) (h : 8 ≤ op.toNat) :
    opWord op b &&& 0x800 = 0x800 := by
  revert op b; decide

theorem reset : Statement .reset := fun _ => by decide
theorem feed (b : Byte) : Statement (.feed b) := fun _ => feedWord b
theorem feedPreMatch : Statement .feedPreMatch := fun _ => by decide
theorem feedPreDone : Statement .feedPreDone := fun _ => by decide
theorem feedPreMiss (b : Byte) : Statement (.feedPreMiss b) := fun _ => feedWord b
theorem feedHdrLenOk (b : Byte) : Statement (.feedHdrLenOk b) := fun _ => feedWord b
theorem feedHdrLenBad (b : Byte) : Statement (.feedHdrLenBad b) := fun _ => feedWord b
theorem feedHdrBody (b : Byte) : Statement (.feedHdrBody b) := fun _ => feedWord b
theorem feedHdrDone (b : Byte) : Statement (.feedHdrDone b) := fun _ => feedWord b
theorem feedPayByte (b : Byte) : Statement (.feedPayByte b) := fun _ => feedWord b
theorem feedPayDone (b : Byte) : Statement (.feedPayDone b) := fun _ => feedWord b
theorem feedPayOvf (b : Byte) : Statement (.feedPayOvf b) := fun _ => feedWord b
theorem feedCrcFirst (b : Byte) : Statement (.feedCrcFirst b) := fun _ => feedWord b
theorem feedCrcOvf (b : Byte) : Statement (.feedCrcOvf b) := fun _ => feedWord b
theorem feedCrcOk (b : Byte) : Statement (.feedCrcOk b) := fun _ => feedWord b
theorem feedCrcBad (b : Byte) : Statement (.feedCrcBad b) := fun _ => feedWord b
theorem decReset : Statement .decReset := fun _ => by decide
theorem crc16 (s : List Byte) : Statement (.crc16 s) := fun _ =>
  show opWord 0x3 0 &&& 0xFFF = 0x300 by decide
theorem transform (s : List Byte) : Statement (.transform s) := fun _ =>
  show opWord 0x4 0 &&& 0xFFF = 0x400 by decide
theorem maybeForward (m : Message) : Statement (.maybeForward m) := fun _ =>
  show opWord 0x5 0 &&& 0xFFF = 0x500 by decide
theorem maybeForwardFwd (m : Message) : Statement (.maybeForwardFwd m) := fun _ =>
  show opWord 0x5 0 &&& 0xFFF = 0x500 by decide
theorem maybeForwardNone (m : Message) : Statement (.maybeForwardNone m) := fun _ =>
  show opWord 0x5 0 &&& 0xFFF = 0x500 by decide
theorem statsRead : Statement .statsRead := fun _ => by decide
theorem rxByte (b : Byte) (g : Sig) : Statement (.rxByte b g) := fun _ => rxWord b
theorem reserved (op : OpCode) (b : Byte) : Statement (.reserved op b) := fun h =>
  reservedWord op b (of_decide_eq_true h)

end Sys2Proof.Laws.RowSelectsWord
end

