-- ==== Sys2Proof/Tests/Slice0.lean ====
section
/-! SUPPORT. Tests: the refusals of WellFormed, one decoding per constructor, the vectors of
95_test_vectors.md, and for every statement with hypotheses a state and operands that meet them. -/

namespace Sys2Proof.Tests

open Sys2Proof.Machine

set_option maxRecDepth 8000

/-! ### WellFormed refuses (30_encoding.md R103, R105) -/

theorem test_wf_miss_not_AA : Instr.wellFormed (.feedPreMiss 0xAA) = false := by decide
theorem test_wf_len_ok_19 : Instr.wellFormed (.feedHdrLenOk 19) = false := by decide
theorem test_wf_len_ok_31 : Instr.wellFormed (.feedHdrLenOk 31) = false := by decide
theorem test_wf_len_bad_20 : Instr.wellFormed (.feedHdrLenBad 20) = false := by decide
theorem test_wf_len_bad_30 : Instr.wellFormed (.feedHdrLenBad 30) = false := by decide
theorem test_wf_reserved_7 : Instr.wellFormed (.reserved 7 0) = false := by decide
theorem test_wf_bounds : Instr.wellFormed (.feedHdrLenOk 20) = true ∧
    Instr.wellFormed (.feedHdrLenOk 30) = true ∧ Instr.wellFormed (.feedHdrLenBad 19) = true ∧
    Instr.wellFormed (.feedHdrLenBad 31) = true ∧ Instr.wellFormed (.reserved 8 0) = true := by
  decide

/-! ### Decoding, words written out from R101 and R102 (op, then the byte) -/

theorem test_dec_reset : decode (.ofWord 0b000000000000) = .ok .reset := rfl
theorem test_dec_feed : decode (.ofWord 0b000101000110) = .ok (.feed 0x46) := rfl
theorem test_dec_decReset : decode (.ofWord 0b001000000000) = .ok .decReset := rfl
theorem test_dec_crc16 : decode ⟨0b001100000000, [1, 2], ⟨3, 4⟩⟩ = .ok (.crc16 [1, 2]) := rfl
theorem test_dec_transform : decode ⟨0b010000000000, [1, 2], ⟨3, 4⟩⟩ = .ok (.transform [1, 2]) :=
  rfl
theorem test_dec_maybeForward :
    decode ⟨0b010100000000, [1, 2], ⟨3, 4⟩⟩ = .ok (.maybeForward ⟨[1, 2], ⟨3, 4⟩⟩) := rfl
theorem test_dec_statsRead : decode (.ofWord 0b011000000000) = .ok .statsRead := rfl
theorem test_dec_rxByte :
    decode ⟨0b011111100001, [1, 2], ⟨3, 4⟩⟩ = .ok (.rxByte 0xE1 ⟨3, 4⟩) := rfl
theorem test_dec_reserved : decode (.ofWord 0b110000010010) = .ok (.reserved 12 0x12) := rfl
theorem test_dec_stray : decode (.ofWord 0b011000000001) = .error .byteBitsNotZero := rfl

/-- The sub-case rows share their generic row's word (R102): 0x1AA, 0x1bb and 0x500. -/
theorem test_enc_rows :
    (encode .feedPreMatch).word = 0x1AA ∧ (encode .feedPreDone).word = 0x1AA ∧
    (encode (.feedPreMiss 0x55)).word = 0x155 ∧ (encode (.feedHdrLenOk 0x14)).word = 0x114 ∧
    (encode (.feedHdrLenBad 0x1F)).word = 0x11F ∧ (encode (.feedHdrBody 3)).word = 0x103 ∧
    (encode (.feedHdrDone 0)).word = 0x100 ∧ (encode (.feedPayByte 0x46)).word = 0x146 ∧
    (encode (.feedPayDone 0x4F)).word = 0x14F ∧ (encode (.feedPayOvf 0)).word = 0x100 ∧
    (encode (.feedCrcFirst 0x7A)).word = 0x17A ∧ (encode (.feedCrcOvf 0)).word = 0x100 ∧
    (encode (.feedCrcOk 0x39)).word = 0x139 ∧ (encode (.feedCrcBad 0x38)).word = 0x138 ∧
    (encode (.maybeForwardFwd default)).word = 0x500 ∧
    (encode (.maybeForwardNone default)).word = 0x500 := by decide

/-! ### The CRC Engine (95_test_vectors.md K1 to K3) -/

theorem test_crc_empty : crc16 [] = 0xFFFF := rfl
theorem test_crc_check_string :
    crc16 [0x31, 0x32, 0x33, 0x34, 0x35, 0x36, 0x37, 0x38, 0x39] = 0x4B37 := by rfl
theorem test_crc_FFFF : crc16 [0xFF, 0xFF] = 0 := by rfl
theorem test_crc_preamble : crc16 Config.preamble = 0x333F := by rfl
theorem test_crc_shift_trace : crcShift 0xFFCE = 0x7FE7 ∧ crcShift 0x7FE7 = 0x9FF2 := by decide

/-! ### A decoder in the middle of the frame of vector S1 -/

/-- A state with the given decoder registers whose buffer holds `xs`; counters 5/2/1. -/
def decoderAt (ph : Phase) (mp : Nat) (xs : List Byte) (hl : Byte) (hc : Nat) (pl : Half)
    (pc tc : Nat) : State :=
  { State.reset with phase := ph, mpos := mp, len := xs.length, buf := Memory.ofBytes xs,
                     hlen := hl, hcnt := hc, plen := pl, pcnt := pc, tcnt := tc, rxc := 5, fwc := 2,
                     cec := 1 }

/-- The 33 bytes of vector S1, written out. -/
def s1 : List Byte :=
  [0xAA, 0xAA, 0xAA, 0xAA, 0xAA, 0xAA, 0xAA, 0xAA, 0x14, 0x00, 0x00, 0x03,
   0, 0, 0, 0, 0, 0, 0, 0, 0, 0, 0, 0, 0, 0, 0, 0, 0x46, 0x4F, 0x4F, 0x7A, 0x39]

def atPre3 : State := decoderAt .pre 3 (s1.take 3) 0 0 0 0 0
def atPre6 : State := decoderAt .pre 6 (s1.take 6) 0 0 0 0 0
def atPre7 : State := decoderAt .pre 7 (s1.take 7) 0 0 0 0 0
def atHdr0 : State := decoderAt .hdr 0 (s1.take 8) 0 0 0 0 0
def atHdr1 : State := decoderAt .hdr 0 (s1.take 9) 20 1 0 0 0
def atHdr18 : State := decoderAt .hdr 0 (s1.take 26) 20 18 0 0 0
def atHdr19 : State := decoderAt .hdr 0 (s1.take 27) 20 19 0 0 0
def atPay0 : State := decoderAt .pay 0 (s1.take 28) 20 20 3 0 0
def atPay2 : State := decoderAt .pay 0 (s1.take 30) 20 20 3 2 0
def atCrc0 : State := decoderAt .crc 0 (s1.take 31) 20 20 3 3 0
def atCrc1 : State := decoderAt .crc 0 (s1.take 32) 20 20 3 3 1

/-- Full buffers: LEN = CAP in S_PAY and in S_CRC. The cells do not matter to R132 and R134. -/
def fullPay : State := { decoderAt .pay 0 [] 20 20 485 484 0 with len := 512 }
def fullCrc : State := { decoderAt .crc 0 [] 20 20 483 483 1 with len := 512 }

/-- The frame of vector S1 is what R98 builds. -/
theorem test_mkFrame_s1 : mkFrame 20 0 (List.replicate 16 0) [0x46, 0x4F, 0x4F] = s1 := by
  decide +kernel

/-! ### FEED, row by row: the examples of 40_frame_decoder.md R123 to R136 -/

theorem test_pre_match : (nextOf (exec .feedPreMatch atPre3)).map
    (fun t => (t.phase, t.mpos, t.len, t.out)) = some (.pre, 4, 4, .event .pending) := by decide
theorem test_pre_done : (nextOf (exec .feedPreDone atPre7)).map
    (fun t => (t.phase, t.mpos, t.len, t.out)) = some (.hdr, 0, 8, .event .pending) := by decide
theorem test_pre_miss : (nextOf (exec (.feedPreMiss 0x55) atPre3)).map
    (fun t => (t.phase, t.mpos, t.len, t.buf)) = some (.pre, 0, 0, []) := by decide
theorem test_hdr_len_ok : (nextOf (exec (.feedHdrLenOk 0x14) atHdr0)).map
    (fun t => (t.phase, t.len, t.hlen, t.hcnt)) = some (.hdr, 9, 20, 1) := by decide
theorem test_hdr_len_bad_AA : (nextOf (exec (.feedHdrLenBad 0xAA) atHdr0)).map
    (fun t => (t.phase, t.mpos, t.len, t.out)) =
      some (.pre, 0, 0, .event (.error .invalidHeaderLength)) := by decide
theorem test_hdr_body : (nextOf (exec (.feedHdrBody 0) atHdr1)).map
    (fun t => (t.phase, t.len, t.hcnt)) = some (.hdr, 10, 2) := by decide
theorem test_hdr_done : (nextOf (exec (.feedHdrDone 0) atHdr19)).map
    (fun t => (t.phase, t.len, t.hcnt, t.plen)) = some (.pay, 28, 20, 3) := by decide
theorem test_hdr_done_empty_payload :
    (nextOf (exec (.feedHdrDone 0) (decoderAt .hdr 0 ((s1.set 11 0).take 27) 20 19 0 0 0))).map
    (fun t => (t.phase, t.plen)) = some (.crc, 0) := by decide
theorem test_pay_byte : (nextOf (exec (.feedPayByte 0x46) atPay0)).map
    (fun t => (t.phase, t.len, t.pcnt)) = some (.pay, 29, 1) := by decide
theorem test_pay_done : (nextOf (exec (.feedPayDone 0x4F) atPay2)).map
    (fun t => (t.phase, t.len, t.pcnt)) = some (.crc, 31, 3) := by decide
theorem test_pay_ovf : (nextOf (exec (.feedPayOvf 0) fullPay)).map
    (fun t => (t.phase, t.len, t.out, t.cec)) =
      some (.pre, 0, .event (.error .bufferOverflow), 1) := by decide
theorem test_crc_first : (nextOf (exec (.feedCrcFirst 0x7A) atCrc0)).map
    (fun t => (t.phase, t.len, t.tcnt)) = some (.crc, 32, 1) := by decide
theorem test_crc_ovf : (nextOf (exec (.feedCrcOvf 0) fullCrc)).map
    (fun t => (t.phase, t.len, t.out, t.cec)) =
      some (.pre, 0, .event (.error .bufferOverflow), 1) := by decide
theorem test_crc_ok : (nextOf (exec (.feedCrcOk 0x39) atCrc1)).map
    (fun t => (t.phase, t.rxc, t.cec, t.out)) =
      some (.pre, 6, 1, .event (.frameReady ⟨20, 3, [0x46, 0x4F, 0x4F], 0x7A39⟩)) := by decide +kernel
theorem test_crc_bad : (nextOf (exec (.feedCrcBad 0x38) atCrc1)).map
    (fun t => (t.phase, t.rxc, t.cec, t.out)) =
      some (.pre, 5, 2, .event (.error .crcMismatch)) := by decide +kernel
/-- V13: CEC saturates. -/
theorem test_cec_saturates :
    (nextOf (exec (.feed 0x38) { atCrc1 with cec := 0xFFFFFFFF })).map (fun t => t.cec) =
      some 0xFFFFFFFF := by decide +kernel
/-- A row that is not selected is the FEED of its byte (R102): 0xAA as a header length. -/
theorem test_unselected_row : (nextOf (exec .feedPreMatch atHdr0)).map (fun t => t.out) =
    some (.event (.error .invalidHeaderLength)) := by decide
/-- A FEED that completes S1 through the generic row. -/
theorem test_feed_s1 : (nextOf (exec (.feed 0x39) atCrc1)).map (fun t => t.rxc) = some 6 := by decide +kernel

/-! ### The other operations (95_test_vectors.md parts 4 and 5) -/

theorem test_reset_Y1 : (nextOf (exec .reset atPay2)).map (fun t => decide (t = State.reset)) =
    some true := by decide
theorem test_decReset_Y2 : (nextOf (exec .decReset atPay2)).map
    (fun t => (t.phase, t.len, t.buf.length, t.rxc, t.fwc, t.cec)) = some (.pre, 0, 0, 5, 2, 1) := by
  decide
theorem test_statsRead_Y3 : (nextOf (exec .statsRead atPay2)).map (fun t => (t.out, t.len)) =
    some (.stats 5 2 1, 30) := by decide
theorem test_crc16_Y4 : (nextOf (exec (.crc16 [0x46, 0x4F, 0x4F]) atHdr1)).map
    (fun t => (t.out, t.len, t.hcnt)) = some (.checksum 0xD1E5, 9, 1) := by decide +kernel
theorem test_transform_T1 : (nextOf (exec (.transform [0x46, 0x4F, 0x4F]) atHdr1)).map
    (fun t => (t.out, t.len)) = some (.bytes [0x46, 0x4F, 0x4F], 9) := by decide +kernel
theorem test_reserved_Y6 : exec (.reserved 0x8 0) atPay2 = .refused .reservedOperation := rfl
theorem test_step_reserved_Y6 :
    step (State.reset.withFetchWord 16 0xFFF) = .refused .reservedOperation := rfl
theorem test_step_first_feed : nextOf (step (State.reset.withFetchWord 16 0x1AA)) =
    some { State.reset with mpos := 1, len := 1, buf := [(0, 0xAA)], out := .event .pending } := by
  decide

/-- The illustrative parameters of 95_test_vectors.md part 4, REWRITE for one digit. -/
def illustrative : Params where
  maxHops := 2
  marker := [0x46, 0x57, 0x44, 0x3A]
  rewrite := fun h => [0x46, 0x57, 0x44, BitVec.ofNat 8 (0x30 + h), 0x3A]
  transform := fun s => s

/-- The state with the given FWC. -/
def withFwc (n : Count) : State := { State.reset with fwc := n }

theorem test_forward_W1 : maybeForward illustrative ⟨[0x46, 0x57, 0x44, 0x3A, 0x68, 0x69], ⟨1, 2⟩⟩
    (withFwc 0) =
      ({ withFwc 1 with sent :=
          [[0x46, 0x57, 0x44, 0x31, 0x3A, 0x46, 0x57, 0x44, 0x3A, 0x68, 0x69]] },
        some [0x46, 0x57, 0x44, 0x31, 0x3A, 0x46, 0x57, 0x44, 0x3A, 0x68, 0x69]) := by decide
theorem test_forward_W3 : maybeForward illustrative ⟨[0x46, 0x57, 0x44], default⟩ (withFwc 1) =
    (withFwc 1, none) := by decide
theorem test_forward_W5 : maybeForward illustrative ⟨[0x46, 0x57, 0x44, 0x3A, 0x62], default⟩
    (withFwc 2) = (withFwc 2, none) := by decide
/-- A frame whose delivered Message is not forwarded (no marker), through RX_BYTE. -/
theorem test_rx_not_forwarded :
    (nextOf (receiveByte illustrative 0x39 ⟨7, 8⟩ atCrc1)).map (fun t => (t.out, t.rxc, t.fwc)) =
      some (.received (.frameReady ⟨20, 3, [0x46, 0x4F, 0x4F], 0x7A39⟩)
        (some ⟨[0x46, 0x4F, 0x4F], ⟨7, 8⟩⟩) none, 6, 2) := by decide +kernel
theorem test_rx_pending : (nextOf (exec (.rxByte 0x46 ⟨7, 8⟩) atPay0)).map (fun t => (t.out, t.pcnt))
    = some (.received .pending none none, 1) := by decide

/-- A transform substituted for the identity: the payload backwards, with its length in front, so
that the output is longer than the input (R177). -/
def backwards : Params :=
  { illustrative with transform := fun s => BitVec.ofNat 8 s.length :: s.reverse }

/-- The FOO of vector S1 through a substituted transform, from RX_BYTE's word on (R177, R178). -/
theorem test_substituted_transform :
    (nextOf (stepWith backwards { atCrc1 with inbox := [⟨0x739, [], ⟨7, 8⟩⟩] })).map
      (fun t => (t.out, t.rxc, t.phase)) =
    some (.received (.frameReady ⟨20, 3, [0x46, 0x4F, 0x4F], 0x7A39⟩)
      (some ⟨[3, 0x4F, 0x4F, 0x46], ⟨7, 8⟩⟩) none, 6, .pre) := by decide +kernel
theorem test_substituted_transform_op :
    (nextOf (stepWith backwards { atHdr1 with inbox := [⟨0x400, [1, 2], default⟩] })).map
      (fun t => t.out) = some (.bytes [2, 2, 1]) := by decide

/-! ### Witnesses: every hypothesis of the statements is met -/

theorem inv_of_parts {s : State} (h0 : BufferFilled s) (h1 : s.phase = .pre → PreInv s)
    (h2 : s.phase = .hdr → HdrInv s) (h3 : s.phase = .pay → PayInv s)
    (h4 : s.phase = .crc → CrcInv s) : DecoderInv s := ⟨h0, h1, h2, h3, h4⟩

theorem witness_inv_reset : DecoderInv State.reset :=
  inv_of_parts (by decide) (by decide) (by decide) (by decide) (by decide)
theorem witness_inv_pre3 : DecoderInv atPre3 :=
  inv_of_parts (by decide) (by decide) (by decide) (by decide) (by decide)
theorem witness_inv_pre6 : DecoderInv atPre6 :=
  inv_of_parts (by decide) (by decide) (by decide) (by decide) (by decide)
theorem witness_inv_pre7 : DecoderInv atPre7 :=
  inv_of_parts (by decide) (by decide) (by decide) (by decide) (by decide)
theorem witness_inv_hdr0 : DecoderInv atHdr0 :=
  inv_of_parts (by decide) (by decide) (by decide) (by decide) (by decide)
theorem witness_inv_hdr1 : DecoderInv atHdr1 :=
  inv_of_parts (by decide) (by decide) (by decide) (by decide) (by decide)
theorem witness_inv_hdr18 : DecoderInv atHdr18 :=
  inv_of_parts (by decide) (by decide) (by decide) (by decide) (by decide)
theorem witness_inv_hdr19 : DecoderInv atHdr19 :=
  inv_of_parts (by decide) (by decide) (by decide) (by decide) (by decide)
theorem witness_inv_pay0 : DecoderInv atPay0 :=
  inv_of_parts (by decide) (by decide) (by decide) (by decide) (by decide)
theorem witness_inv_pay2 : DecoderInv atPay2 :=
  inv_of_parts (by decide) (by decide) (by decide) (by decide) (by decide)
theorem witness_inv_crc0 : DecoderInv atCrc0 :=
  inv_of_parts (by decide) (by decide) (by decide) (by decide) (by decide)
theorem witness_inv_crc1 : DecoderInv atCrc1 :=
  inv_of_parts (by decide) (by decide) (by decide) (by decide) (by decide)

/-- Inv itself, at reset: zero is at or below any ceiling. -/
theorem witness_inv : HopInv State.reset := Nat.zero_le _

theorem witness_sel_pre_match : (DecoderInv State.reset ∧ SelPreMatch State.reset 0xAA) ∧
    (DecoderInv atPre6 ∧ SelPreMatch atPre6 0xAA) :=
  ⟨⟨witness_inv_reset, by decide⟩, ⟨witness_inv_pre6, by decide⟩⟩
theorem witness_sel_pre_done : DecoderInv atPre7 ∧ SelPreDone atPre7 0xAA :=
  ⟨witness_inv_pre7, by decide⟩
theorem witness_sel_pre_miss : SelPreMiss State.reset 0xA9 ∧ SelPreMiss atPre7 0 := by decide
theorem witness_sel_hdr_len_ok : DecoderInv atHdr0 ∧ SelHdrLenOk atHdr0 20 ∧ SelHdrLenOk atHdr0 30 :=
  ⟨witness_inv_hdr0, by decide⟩
theorem witness_sel_hdr_len_bad : SelHdrLenBad atHdr0 19 ∧ SelHdrLenBad atHdr0 31 := by decide
theorem witness_sel_hdr_body : (DecoderInv atHdr1 ∧ SelHdrBody atHdr1) ∧
    (DecoderInv atHdr18 ∧ SelHdrBody atHdr18) :=
  ⟨⟨witness_inv_hdr1, by decide⟩, ⟨witness_inv_hdr18, by decide⟩⟩
theorem witness_sel_hdr_done : DecoderInv atHdr19 ∧ SelHdrDone atHdr19 :=
  ⟨witness_inv_hdr19, by decide⟩
theorem witness_sel_pay_byte : DecoderInv atPay0 ∧ SelPayByte atPay0 :=
  ⟨witness_inv_pay0, by decide⟩
theorem witness_sel_pay_done : DecoderInv atPay2 ∧ SelPayDone atPay2 :=
  ⟨witness_inv_pay2, by decide⟩
theorem witness_sel_pay_ovf : SelPayOvf fullPay := by decide
theorem witness_sel_crc_first : DecoderInv atCrc0 ∧ SelCrcFirst atCrc0 :=
  ⟨witness_inv_crc0, by decide⟩
theorem witness_sel_crc_ovf : SelCrcOvf fullCrc := by decide
theorem witness_sel_crc_ok : DecoderInv atCrc1 ∧ SelCrcOk atCrc1 0x39 :=
  ⟨witness_inv_crc1, rfl, by decide, rfl, by decide +kernel⟩
theorem witness_sel_crc_bad : SelCrcBad atCrc1 0x38 := ⟨rfl, by decide, rfl, by decide +kernel⟩

/-- DecodeOfEncodeIsTheGenericRow, both clauses; EncodeOfDecodeIsTheWord. -/
theorem witness_wf : Instr.wellFormed (.feedHdrLenOk 30) = true ∧
    Instr.wellFormed (.reserved 15 0xFF) = true ∧
    Instr.generic (.reserved 15 0xFF) = .reserved 15 0xFF := by decide
theorem witness_decodes : decode (.ofWord 0x7E1) = .ok (.rxByte 0xE1 default) := rfl

/-- StrayByteBitsAreRefused, ReservedCodesAreRefused, StepRunsTheDecodedOperation. -/
theorem witness_stray : (State.reset.withFetchWord 16 0x601).inbox = [.ofWord 0x601] ∧
    (opField (Request.ofWord 0x601).word).toNat ∈ [0, 2, 3, 4, 5, 6] ∧
    byteField (Request.ofWord 0x601).word ≠ 0 := by decide
theorem witness_reserved : (State.reset.withFetchWord 16 0x800).inbox = [.ofWord 0x800] ∧
    8 ≤ (opField (Request.ofWord 0x800).word).toNat := by decide
theorem witness_step : (State.reset.withFetchWord 16 0x1AA).inbox = [.ofWord 0x1AA] ∧
    decode (.ofWord 0x1AA) = .ok (.feed 0xAA) := ⟨rfl, rfl⟩
theorem witness_idle : State.reset.inbox = [] := rfl

/-- DecResetOperationFromAnyState, second clause. -/
theorem witness_dec_reset_idle : DecoderInv State.reset ∧ State.reset.phase = .pre ∧
    State.reset.mpos = 0 := ⟨witness_inv_reset, by decide, by decide⟩

/-- CrcIsIncrementalAndLinear: equal lengths. -/
theorem witness_crc_linear : [0x46, 0x4F, 0x4F].length = [0x42, 0x41, 0x52].length := rfl

/-- TwoByteReadsAreBigEndian: header offsets 2 and 3 of S1. -/
theorem witness_two_bytes : memByte atHdr19 10 = some 0 ∧ memByte atHdr19 (10 + 1) = some 3 := by
  decide

/-- BufAppendIsBoundsChecked at CAP, one below, and at zero. -/
theorem witness_append : fullPay.len = Config.cap ∧
    ({ fullPay with len := 511 } : State).len < Config.cap ∧ State.reset.len < Config.cap := by
  decide

/-- StepKeepsBufferCanonical, StepKeepsTheInvariants: a step that answers a next state. -/
theorem witness_step_next : Inv (State.reset.withFetchWord 16 0x1AA) ∧
    (State.reset.withFetchWord 16 0x1AA).buf.wf = true ∧
    step (State.reset.withFetchWord 16 0x1AA) = .next
      { State.reset with mpos := 1, len := 1, buf := [(0, 0xAA)], out := .event .pending } :=
  ⟨⟨inv_of_parts (by decide) (by decide) (by decide) (by decide) (by decide), Nat.zero_le _⟩,
    rfl, rfl⟩

/-- RowsAgreeWithTheListing, FeedFrame, ErrorEntryResetsAndCounts, PhasesMoveOnlyAlongTheTable:
a row and what it answers, storing, clearing and raising. -/
theorem witness_raises : Instr.generic (.feedHdrLenBad 31) = .feed 31 ∧ DecoderInv atHdr0 ∧
    exec (.feedHdrLenBad 31) atHdr0 =
      .next { atHdr0.fullReset with out := .event (.error .invalidHeaderLength) } :=
  ⟨rfl, witness_inv_hdr0, rfl⟩
theorem witness_raises_mismatch : (nextOf (exec (.feed 0x38) atCrc1)).map (fun t => t.out) =
    some (.event (.error .crcMismatch)) := by decide +kernel
theorem witness_stores : Instr.generic .feedPreMatch = .feed 0xAA ∧
    exec .feedPreMatch State.reset = .next { State.reset with
      mpos := 1, len := 1, buf := [(0, 0xAA)], out := .event .pending } := ⟨rfl, rfl⟩
theorem witness_feed_next : DecoderInv State.reset ∧ exec (.feed 0x46) State.reset =
    .next { State.reset with out := .event .pending } := ⟨witness_inv_reset, rfl⟩

/-- The 511 bytes of a frame with P = 484, one payload byte short (V10). -/
def nearlyFull : State :=
  decoderAt .pay 0 (Config.preamble ++ [20, 0, 1, 0xE4] ++ List.replicate 499 0) 20 20 484 483 0

/-- PayloadCompletes, last clause: the row is selected with LEN one below CAP, so LEN becomes CAP. -/
theorem witness_pay_done_full : DecoderInv nearlyFull ∧ SelPayDone nearlyFull ∧
    8 + nearlyFull.hlen.toNat + nearlyFull.plen.toNat = Config.cap :=
  ⟨inv_of_parts (by decide +kernel) (by decide) (by decide) (by decide +kernel) (by decide),
    by decide, by decide⟩

/-- OnlyDecoderOperationsChangeTheDecoder, CountersDecreaseOnlyByReset, CountersFollowTheEvents. -/
theorem witness_stats : (∀ b, Instr.generic .statsRead ≠ .feed b) ∧
    (∀ b g, Instr.statsRead ≠ .rxByte b g) ∧ Instr.statsRead ≠ .reset ∧
    Instr.statsRead ≠ .decReset ∧
    exec .statsRead atPay2 = .next { atPay2 with out := .stats 5 2 1 } :=
  ⟨fun _ => nofun, fun _ _ => nofun, nofun, nofun, rfl⟩

/-- MaybeForwardDecidesAndCounts: the three constructors. -/
theorem witness_generic_forward : Instr.generic (.maybeForward default) = .maybeForward default ∧
    Instr.generic (.maybeForwardFwd default) = .maybeForward default ∧
    Instr.generic (.maybeForwardNone default) = .maybeForward default := by decide

/-- RefusedForwardIsSilent: no counter is below a ceiling of 32 bits when it is all ones; and with
named parameters each reason apart. -/
theorem witness_refused (m : Message) :
    ¬ ForwardOk Config.params (withFwc (BitVec.allOnes 32)) m := fun h => by
  have h1 := h.2
  have h2 := Config.params.maxHops.isLt
  rw [BitVec.lt_def] at h1
  have h3 : (withFwc (BitVec.allOnes 32)).fwc.toNat = 4294967295 := rfl
  omega
theorem witness_refused_reasons : ¬ StartsWith [0x66] illustrative.marker ∧
    illustrative.maxHops ≤ (withFwc 2).fwc ∧
    ({ illustrative with maxHops := 0 } : Params).maxHops = 0 := by
  decide

/-- AtTheCeilingNothingIsSent. -/
theorem witness_ceiling : Instr.statsRead ≠ .reset ∧ (withFwc Config.params.maxHops).fwc = Config.params.maxHops ∧
    exec .statsRead (withFwc Config.params.maxHops) =
      .next { withFwc Config.params.maxHops with out := .stats 0 Config.params.maxHops 0 } :=
  ⟨nofun, rfl, rfl⟩

/-- AtMostMaxHopsMessagesAreRelayed: two operations presented, no RESET among them. -/
theorem witness_no_reset : ∀ r ∈ [encode (.feed 0x46), encode .statsRead],
    decode r ≠ .ok .reset := by
  intro r hr
  rcases List.mem_cons.mp hr with rfl | hr
  · nofun
  · rcases List.mem_cons.mp hr with rfl | hr
    · nofun
    · cases hr
theorem witness_run :
    HopInv { State.reset with inbox := [encode (.feed 0x46), encode .statsRead] } ∧
    Host.Core.run Sys2Proof.core 2
      { State.reset with inbox := [encode (.feed 0x46), encode .statsRead] } =
    .next { State.reset with out := .stats 0 0 0 } := ⟨Nat.zero_le _, rfl⟩

/-- SignalMetricsPlayNoPart. -/
theorem witness_rx_next : exec (.rxByte 0x46 ⟨1, 2⟩) State.reset =
    .next { State.reset with out := .received .pending none none } := rfl

/-- CollectedBytesDecideNothing: each of the three cases. -/
theorem witness_collecting :
    (DecoderInv atHdr1 ∧ atHdr1.len < Config.cap ∧ atHdr1.phase = .hdr ∧ atHdr1.hcnt ≠ 0) ∧
    (DecoderInv atPay0 ∧ atPay0.len < Config.cap ∧ atPay0.phase = .pay) ∧
    (DecoderInv atCrc0 ∧ atCrc0.len < Config.cap ∧ atCrc0.phase = .crc ∧ atCrc0.tcnt = 0) :=
  ⟨⟨witness_inv_hdr1, by decide, by decide, by decide⟩, ⟨witness_inv_pay0, by decide, by decide⟩,
    ⟨witness_inv_crc0, by decide, by decide, by decide⟩⟩

/-- CorrectFramesDecode and the statements like it: the smallest frame and the two largest
(V1, V5). -/
theorem witness_frame_fits : DecoderIsReset State.reset ∧ FrameFits 20 (List.replicate 16 0) [] ∧
    FrameFits 20 (List.replicate 16 0) (List.replicate 482 0) ∧
    FrameFits 30 (List.replicate 26 0) (List.replicate 472 0) := by decide
theorem witness_wrong_trailer : DecoderIsReset State.reset ∧
    FrameFits 20 (List.replicate 16 0) [0x46, 0x4F, 0x4F] ∧
    be16 0x7A 0x38 ≠ crc16 (mkBody 20 0 (List.replicate 16 0) [0x46, 0x4F, 0x4F]) := by
  refine ⟨by decide, by decide, ?_⟩
  decide +kernel

/-- OverlongFrameOverflowsAtByte513: P = 483 with H = 20 is the first that does not fit (V10). -/
theorem witness_overlong : HeaderLengthLegal 20 ∧
    (List.replicate 16 (0 : Byte)).length + 4 = (20 : Byte).toNat ∧ DecoderIsReset State.reset ∧
    Config.cap < (20 : Byte).toNat + 10 +
    (483 : Half).toNat ∧
    (Config.preamble ++ mkHeader 20 0 483 (List.replicate 16 0) ++
      List.replicate 485 0).length = Config.cap + 1 := by decide

/-- FrameDecodesAfterAFalseStart: after five matching bytes (S6, V9). -/
theorem witness_false_start : DecoderInv atPre6 ∧ atPre6.phase = .pre ∧ (0x55 : Byte) ≠ 0xAA ∧
    FrameFits 20 (List.replicate 16 0) [0x46, 0x4F, 0x4F] :=
  ⟨witness_inv_pre6, by decide, by decide, by decide⟩

/-- AnyTransformCanBePluggedIn: the invariants hold before the byte that delivers, TRANSFORM's
neighbour STATS_READ is neither excepted instruction, and a step over a record answers. -/
theorem witness_plugged : DecoderInv atCrc1 ∧ (∀ x, Instr.statsRead ≠ .transform x) ∧
    (∀ b g, Instr.statsRead ≠ .rxByte b g) ∧
    stepWith illustrative State.reset = .next State.reset :=
  ⟨witness_inv_crc1, nofun, nofun, rfl⟩

end Sys2Proof.Tests
end

section
/-! Proofs of the scope family (00_scope.md). -/

namespace Sys2Proof.Machine

/-- Settles O6: a step is `takeNext` at the block's own `exec`, and `takeNext_run` says what taking
a request that decodes amounts to. -/
theorem stepRunsTheDecodedOperation : Obligations.StepRunsTheDecodedOperation := by
  unfold Obligations.StepRunsTheDecodedOperation
  intro s r rest i hinbox hdecode
  calc step s = takeNext exec s := rfl
    _ = exec i { s with inbox := rest } := takeNext_run hinbox hdecode

end Sys2Proof.Machine
end

section
/-! SUPPORT. Each FEED.* row, where the state and the byte select it, is FEED itself
(30_encoding.md R102, R103; 40_frame_decoder.md R139). -/

namespace Sys2Proof.Machine

/-! FEED, split by the phase it begins in (R122). -/

theorem feed_of_pre {s : State} (h : s.phase = .pre) (b : Byte) : feed b s = feedPre b s := by
  simp [feed, h]

theorem feed_of_hdr {s : State} (h : s.phase = .hdr) (b : Byte) : feed b s = feedHdr b s := by
  simp [feed, h]

theorem feed_of_pay {s : State} (h : s.phase = .pay) (b : Byte) : feed b s = feedPay b s := by
  simp [feed, h]

theorem feed_of_crc {s : State} (h : s.phase = .crc) (b : Byte) : feed b s = feedCrc b s := by
  simp [feed, h]

theorem preamble_getElem?_eq_some_iff (n : Nat) (b : Byte) :
    Config.preamble[n]? = some b ↔ n < 8 ∧ b = 0xAA := by
  have hrep : Config.preamble = List.replicate 8 0xAA := rfl
  rw [hrep, List.getElem?_replicate]
  by_cases hn : n < 8
  · simp [hn, eq_comm]
  · simp [hn]

/-- Two rules that agree on the stored state agree after the append. -/
theorem afterAppend_congr {b : Byte} {s : State} {k k' : State → Fed}
    (h : s.len < Config.cap → k (s.store b) = k' (s.store b)) :
    afterAppend b s k = afterAppend b s k' := by
  rcases Nat.lt_or_ge s.len Config.cap with hl | hl
  · rw [afterAppend_room hl, afterAppend_room hl, h hl]
  · rw [afterAppend_full hl, afterAppend_full hl]

theorem rulePreMatch_eq_feed {s : State} (h : SelPreMatch s 0xAA) :
    rulePreMatch 0xAA s = feed 0xAA s := by
  obtain ⟨hp, hm, -⟩ := h
  rw [feed_of_pre hp, feedPre,
    if_pos ((preamble_getElem?_eq_some_iff _ _).mpr ⟨by omega, rfl⟩)]
  have hmore : s.mpos + 1 ≠ 8 := by omega
  exact afterAppend_congr fun _ => (if_neg hmore).symm

theorem rulePreDone_eq_feed {s : State} (h : SelPreDone s 0xAA) :
    rulePreDone 0xAA s = feed 0xAA s := by
  obtain ⟨hp, hm, -⟩ := h
  rw [feed_of_pre hp, feedPre,
    if_pos ((preamble_getElem?_eq_some_iff _ _).mpr ⟨by omega, rfl⟩)]
  have hdone : s.mpos + 1 = 8 := by omega
  exact afterAppend_congr fun _ => (if_pos hdone).symm

theorem rulePreMiss_eq_feed {s : State} {b : Byte} (h : SelPreMiss s b) :
    rulePreMiss s = feed b s := by
  obtain ⟨hp, hb⟩ := h
  rw [feed_of_pre hp, feedPre,
    if_neg fun hm => hb ((preamble_getElem?_eq_some_iff _ _).mp hm).2, rulePreMiss]

theorem ruleHdrLenOk_eq_feed {s : State} {b : Byte} (h : SelHdrLenOk s b) :
    ruleHdrLenOk b s = feed b s := by
  obtain ⟨hp, h0, hlegal⟩ := h
  rw [feed_of_hdr hp, feedHdr, if_pos h0, if_neg (by omega), ruleHdrLenOk]

theorem ruleHdrLenBad_eq_feed {s : State} {b : Byte} (h : SelHdrLenBad s b) :
    ruleHdrLenBad s = feed b s := by
  obtain ⟨hp, h0, hillegal⟩ := h
  rw [feed_of_hdr hp, feedHdr, if_pos h0, if_pos (by omega), ruleHdrLenBad]

theorem ruleHdrBody_eq_feed {s : State} (h : SelHdrBody s) (b : Byte) :
    ruleHdrBody b s = feed b s := by
  obtain ⟨hp, h1, hlt⟩ := h
  rw [feed_of_hdr hp, feedHdr, if_neg (by omega)]
  have hmore : s.hcnt + 1 ≠ s.hlen.toNat := by omega
  exact afterAppend_congr fun _ => (if_neg hmore).symm

theorem ruleHdrDone_eq_feed {s : State} (h : SelHdrDone s) (b : Byte) :
    ruleHdrDone b s = feed b s := by
  obtain ⟨hp, h1, hlast⟩ := h
  rw [feed_of_hdr hp, feedHdr, if_neg (by omega)]
  exact afterAppend_congr fun _ => (if_pos hlast).symm

theorem rulePayByte_eq_feed {s : State} (h : SelPayByte s) (b : Byte) :
    rulePayByte b s = feed b s := by
  obtain ⟨hp, -, hlt⟩ := h
  rw [feed_of_pay hp]
  have hmore : s.pcnt + 1 ≠ s.plen.toNat := by omega
  exact afterAppend_congr fun _ => (if_neg hmore).symm

theorem rulePayDone_eq_feed {s : State} (h : SelPayDone s) (b : Byte) :
    rulePayDone b s = feed b s := by
  obtain ⟨hp, -, hlast⟩ := h
  rw [feed_of_pay hp]
  exact afterAppend_congr fun _ => (if_pos hlast).symm

theorem ruleOverflow_eq_feed_of_pay {s : State} (h : SelPayOvf s) (b : Byte) :
    ruleOverflow s = feed b s := by
  obtain ⟨hp, hfull⟩ := h
  rw [feed_of_pay hp, feedPay, afterAppend_full (Nat.le_of_eq hfull.symm), ruleOverflow]

theorem ruleOverflow_eq_feed_of_crc {s : State} (h : SelCrcOvf s) (b : Byte) :
    ruleOverflow s = feed b s := by
  obtain ⟨hp, hfull⟩ := h
  rw [feed_of_crc hp, feedCrc, afterAppend_full (Nat.le_of_eq hfull.symm), ruleOverflow]

theorem ruleCrcFirst_eq_feed {s : State} (h : SelCrcFirst s) (b : Byte) :
    ruleCrcFirst b s = feed b s := by
  obtain ⟨hp, -, h0⟩ := h
  rw [feed_of_crc hp]
  exact afterAppend_congr fun _ => by simp [h0]

/-- A cell that reads as a byte lies below LEN (R11). -/
theorem lt_len_of_memByte {s : State} {i : Nat} {v : Byte} (h : memByte s i = some v) :
    i < s.len := by
  unfold memByte at h
  split at h
  · assumption
  · cases h

/-- A trailer verdict before the second byte is stored is a statement about the two reads that
`judgeTrailer` does after it is (R103, R135). -/
theorem trailerMatches_eq_some {s : State} {b : Byte} {v : Bool} (h : trailerMatches s b = some v) :
    ∃ hi body, memHalf (s.store b) (s.len - 1) = some (be16 hi b) ∧
      memSlice (s.store b) 0 (s.len - 1) = some body ∧ v = decide (be16 hi b = crc16 body) := by
  unfold trailerMatches at h
  split at h
  · rename_i hi body hhi hbody
    cases h
    have hpos := lt_len_of_memByte hhi
    refine ⟨hi, body, ?_, ?_, rfl⟩
    · have hlast : s.len - 1 + 1 = s.len := by omega
      rw [memHalf, memByte_store_below b hpos, hhi, hlast, memByte_store_at]
    · rw [memSlice_store_below b (by omega), hbody]
  · cases h

theorem judgeTrailer_of_mismatch {t : State} {rx : Half} {body : List Byte}
    (hhalf : memHalf t (t.len - 2) = some rx) (hbody : memSlice t 0 (t.len - 2) = some body)
    (hcrc : rx ≠ crc16 body) : judgeTrailer t = .ok (raiseError .crcMismatch t) := by
  rw [judgeTrailer, hhalf, hbody]
  exact if_neg hcrc

theorem judgeTrailer_of_match {t : State} {rx : Half} {body : List Byte}
    (hhalf : memHalf t (t.len - 2) = some rx) (hbody : memSlice t 0 (t.len - 2) = some body)
    (hcrc : rx = crc16 body) :
    judgeTrailer t =
      (memSlice t (Config.preLen + t.hlen.toNat) t.plen.toNat).elim (.error .bufferCellHoldsNoValue)
        fun payload =>
          .ok (t.countReceived.fullReset, .frameReady ⟨t.hlen, t.plen, payload, rx⟩) := by
  rw [judgeTrailer, hhalf, hbody]
  simp only [if_pos hcrc]
  cases memSlice t (Config.preLen + t.hlen.toNat) t.plen.toNat <;> rfl

theorem ruleCrcOk_of_trailer {s : State} {b : Byte} {rx : Half} (hroom : s.len < Config.cap)
    (hhalf : memHalf (s.store b) ((s.store b).len - 2) = some rx) :
    ruleCrcOk b s =
      (memSlice (s.store b) (Config.preLen + s.hlen.toNat) s.plen.toNat).elim
        (.error .bufferCellHoldsNoValue)
        fun payload =>
          .ok (s.countReceived.fullReset, .frameReady ⟨s.hlen, s.plen, payload, rx⟩) := by
  rw [ruleCrcOk, afterAppend_room hroom, hhalf, State.store_hlen, State.store_plen]
  cases memSlice (s.store b) (Config.preLen + s.hlen.toNat) s.plen.toNat <;> rfl

/-- The second trailer byte brings the verdict (R139). -/
theorem feedCrc_of_second {s : State} (b : Byte) (hroom : s.len < Config.cap) (h1 : s.tcnt = 1) :
    feedCrc b s = judgeTrailer { s.store b with tcnt := 2 } := by
  rw [feedCrc, afterAppend_room hroom]
  simp only [State.store_tcnt, h1]
  exact if_neg (by decide)

theorem ruleCrcOk_eq_feed {s : State} {b : Byte} (h : SelCrcOk s b) :
    ruleCrcOk b s = feed b s := by
  obtain ⟨hp, hroom, h1, hmatch⟩ := h
  obtain ⟨hi, body, hhalf, hbody, hverdict⟩ := trailerMatches_eq_some hmatch
  have hcrc : be16 hi b = crc16 body := of_decide_eq_true hverdict.symm
  rw [feed_of_crc hp, feedCrc_of_second b hroom h1, ruleCrcOk_of_trailer hroom hhalf]
  exact (judgeTrailer_of_match (t := { s.store b with tcnt := 2 }) hhalf hbody hcrc).symm

theorem ruleCrcBad_eq_feed {s : State} {b : Byte} (h : SelCrcBad s b) :
    ruleCrcBad b s = feed b s := by
  obtain ⟨hp, hroom, h1, hmatch⟩ := h
  obtain ⟨hi, body, hhalf, hbody, hverdict⟩ := trailerMatches_eq_some hmatch
  have hcrc : be16 hi b ≠ crc16 body := of_decide_eq_false hverdict.symm
  rw [feed_of_crc hp, feedCrc_of_second b hroom h1, ruleCrcBad, afterAppend_room hroom]
  exact (judgeTrailer_of_mismatch hhalf hbody hcrc).symm

/-- A row whose rule is FEED where it is selected is FEED in every state. -/
theorem rowOrFeed_eq_execFeed {c : Prop} [Decidable c] {rule : Fed} {b : Byte} {s : State}
    (h : c → rule = feed b s) : rowOrFeed (decide c) rule b s = execFeed b s := by
  by_cases hc : c
  · rw [rowOrFeed_selected hc, h hc, execFeed]
  · rw [rowOrFeed_not hc, execFeed]

/-- Every FEED row is the FEED of its byte, in every state (R102, R139). -/
theorem exec_eq_feed_of_generic {i : Instr} {b : Byte} (hg : i.generic = .feed b) (s : State) :
    exec i s = exec (.feed b) s := by
  cases i with
  | feed c => cases hg; rfl
  | feedPreMatch => cases hg; exact rowOrFeed_eq_execFeed rulePreMatch_eq_feed
  | feedPreDone => cases hg; exact rowOrFeed_eq_execFeed rulePreDone_eq_feed
  | feedPreMiss c => cases hg; exact rowOrFeed_eq_execFeed rulePreMiss_eq_feed
  | feedHdrLenOk c => cases hg; exact rowOrFeed_eq_execFeed ruleHdrLenOk_eq_feed
  | feedHdrLenBad c => cases hg; exact rowOrFeed_eq_execFeed ruleHdrLenBad_eq_feed
  | feedHdrBody c => cases hg; exact rowOrFeed_eq_execFeed fun h => ruleHdrBody_eq_feed h b
  | feedHdrDone c => cases hg; exact rowOrFeed_eq_execFeed fun h => ruleHdrDone_eq_feed h b
  | feedPayByte c => cases hg; exact rowOrFeed_eq_execFeed fun h => rulePayByte_eq_feed h b
  | feedPayDone c => cases hg; exact rowOrFeed_eq_execFeed fun h => rulePayDone_eq_feed h b
  | feedPayOvf c => cases hg; exact rowOrFeed_eq_execFeed fun h => ruleOverflow_eq_feed_of_pay h b
  | feedCrcFirst c => cases hg; exact rowOrFeed_eq_execFeed fun h => ruleCrcFirst_eq_feed h b
  | feedCrcOvf c => cases hg; exact rowOrFeed_eq_execFeed fun h => ruleOverflow_eq_feed_of_crc h b
  | feedCrcOk c => cases hg; exact rowOrFeed_eq_execFeed ruleCrcOk_eq_feed
  | feedCrcBad c => cases hg; exact rowOrFeed_eq_execFeed ruleCrcBad_eq_feed
  | _ => cases hg

end Sys2Proof.Machine
end

section
/-! SUPPORT. Everything an operation can do when it answers a next state, said once, and what that
is for the counters and for what is sent (10_state.md R32, R35 to R38). -/

namespace Sys2Proof.Machine

/-- The effects of an operation that answers a next state: one of six. -/
inductive ExecEffect (i : Instr) (s : State) : State → Prop where
  /-- RESET (R195) -/
  | reset : i = .reset → ExecEffect i s (s.fullReset.clearCounters.returning .none)
  /-- DEC_RESET (R196) -/
  | decReset : i = .decReset → ExecEffect i s (s.fullReset.returning .none)
  /-- FEED or one of its rows (R120) -/
  | fed (b : Byte) (t : State) (ev : DecoderEvent) : i.generic = .feed b →
      feed b s = .ok (t, ev) → ExecEffect i s (t.returning (.event ev))
  /-- CRC16, TRANSFORM, STATS_READ: an output that is no event and no message -/
  | answered (o : Output) : decoderEventOf o = none → forwardedOf o = none →
      ExecEffect i s (s.returning o)
  /-- MAYBE_FORWARD or one of its rows (R180) -/
  | forwarded (m : Message) : ExecEffect i s (forwardOutcome (maybeForward Config.params m s))
  /-- RX_BYTE (R198) -/
  | received (b : Byte) (g : Sig) (t : State) (ev : DecoderEvent) : i = .rxByte b g →
      feed b s = .ok (t, ev) → ExecEffect i s (deliver Config.params g (t, ev))

theorem ExecEffect.of_feed_row {i : Instr} {b : Byte} {s u : State} (hg : i.generic = .feed b)
    (h : exec i s = .next u) : ExecEffect i s u := by
  rw [exec_eq_feed_of_generic hg] at h
  obtain ⟨t, ev, hfeed, rfl⟩ := execFeed_next h
  exact .fed b t ev hg hfeed

/-- Everything an operation can do to the state. -/
theorem exec_effect {i : Instr} {s u : State} (h : exec i s = .next u) : ExecEffect i s u := by
  cases i with
  | reset => cases h; exact .reset rfl
  | decReset => cases h; exact .decReset rfl
  | crc16 x => cases h; exact .answered _ rfl rfl
  | transform x => cases h; exact .answered _ rfl rfl
  | statsRead => cases h; exact .answered _ rfl rfl
  | maybeForward m => cases h; exact .forwarded m
  | maybeForwardFwd m =>
    cases h
    rw [rowOrForward_fwd]
    exact .forwarded m
  | maybeForwardNone m =>
    cases h
    rw [rowOrForward_none]
    exact .forwarded m
  | rxByte b g =>
    obtain ⟨⟨t, ev⟩, hfeed, rfl⟩ := receiveByte_next h
    exact .received b g t ev rfl hfeed
  | reserved op b => cases h
  | _ => exact .of_feed_row rfl h

/-- What a FEED does to the counters is told by its event; it sends nothing. -/
theorem FeedEffect.counters {b : Byte} {s t : State} {ev : DecoderEvent} (h : FeedEffect b s t ev) :
    t.rxc = (if isFrameReady (some ev) then satInc s.rxc else s.rxc) ∧
    t.cec = (if some ev = some (.error .crcMismatch) then satInc s.cec else s.cec) ∧
    t.fwc = s.fwc ∧ t.sent = s.sent := by
  cases h with
  | restart => exact ⟨rfl, rfl, rfl, rfl⟩
  | stored => exact ⟨rfl, rfl, rfl, rfl⟩
  | raised k => cases k <;> exact ⟨rfl, rfl, rfl, rfl⟩
  | delivered => exact ⟨rfl, rfl, rfl, rfl⟩

/-- FWC and what was sent move exactly with the message MAYBE_FORWARD returns (R182, R183). -/
theorem maybeForward_counters (p : Params) (m : Message) (s : State) :
    (maybeForward p m s).1.rxc = s.rxc ∧ (maybeForward p m s).1.cec = s.cec ∧
    (maybeForward p m s).1.fwc = (if (maybeForward p m s).2.isSome then s.fwc + 1 else s.fwc) ∧
    (maybeForward p m s).1.sent = s.sent ++ (maybeForward p m s).2.toList := by
  rcases maybeForward_cases p m s with ⟨-, h⟩ | ⟨-, h⟩ <;> simp [h]

/-- RX_BYTE returns the event of its FEED, and FWC and what was sent move exactly with the message
it returns (R198). -/
theorem deliver_counters (p : Params) (g : Sig) (t : State) (ev : DecoderEvent) :
    decoderEventOf (deliver p g (t, ev)).out = some ev ∧
    (deliver p g (t, ev)).fwc =
      (if (forwardedOf (deliver p g (t, ev)).out).isSome then t.fwc + 1 else t.fwc) ∧
    (deliver p g (t, ev)).sent = t.sent ++ (forwardedOf (deliver p g (t, ev)).out).toList := by
  cases ev with
  | pending => simp [deliver, decoderEventOf, forwardedOf]
  | error k => simp [deliver, decoderEventOf, forwardedOf]
  | frameReady f =>
    obtain ⟨-, -, hfwc, hsent⟩ := maybeForward_counters p ⟨p.transform f.payload, g⟩ t
    exact ⟨rfl, hfwc, hsent⟩

/-- FWC stands still or counts one from below MAX_HOPS (R181, R182). -/
theorem maybeForward_fwc_cases (p : Params) (m : Message) (s : State) :
    (maybeForward p m s).1.fwc = s.fwc ∨
    (s.fwc < p.maxHops ∧ (maybeForward p m s).1.fwc = s.fwc + 1) := by
  rcases maybeForward_cases p m s with ⟨⟨-, hlt⟩, h⟩ | ⟨-, h⟩
  · exact .inr ⟨hlt, by rw [h]⟩
  · exact .inl (by rw [h])

theorem deliver_fwc_cases (p : Params) (g : Sig) (t : State) (ev : DecoderEvent) :
    (deliver p g (t, ev)).fwc = t.fwc ∨
    (t.fwc < p.maxHops ∧ (deliver p g (t, ev)).fwc = t.fwc + 1) := by
  cases ev with
  | pending => exact .inl rfl
  | error k => exact .inl rfl
  | frameReady f => exact maybeForward_fwc_cases p ⟨p.transform f.payload, g⟩ t

/-- Without RESET, FWC stands still or counts one from below the ceiling. -/
theorem exec_fwc_cases {i : Instr} {s t : State} (hi : i ≠ .reset) (h : exec i s = .next t) :
    t.fwc = s.fwc ∨ (s.fwc < Config.params.maxHops ∧ t.fwc = s.fwc + 1) := by
  cases exec_effect h with
  | reset hr => exact absurd hr hi
  | decReset => exact .inl rfl
  | fed b t ev hg hfeed =>
    obtain ⟨-, -, hfwc, -⟩ := (feed_effect hfeed).counters
    exact .inl hfwc
  | answered => exact .inl rfl
  | forwarded m => exact maybeForward_fwc_cases Config.params m s
  | received b g t ev hr hfeed =>
    obtain ⟨-, -, hfwc, -⟩ := (feed_effect hfeed).counters
    rw [← hfwc]
    exact deliver_fwc_cases Config.params g t ev

/-- A counter below some ceiling counts without wrapping, up to that ceiling (D9). -/
theorem le_succ_le_of_lt {c m : Count} (h : c < m) : c ≤ c + 1 ∧ c + 1 ≤ m := by
  constructor <;> bv_omega

/-- MAYBE_FORWARD touches no decoder register and no cell of the buffer (R32). -/
theorem maybeForward_sameDecoder (p : Params) (m : Message) (s : State) :
    SameDecoder s (maybeForward p m s).1 := by
  rcases maybeForward_cases p m s with ⟨-, h⟩ | ⟨-, h⟩ <;> simp [SameDecoder, h]

end Sys2Proof.Machine
end

section
/-! Proofs of the state family (10_state.md): the frame of the decoder and the counters. -/

namespace Sys2Proof.Machine

/-- Settles O38: of the six effects of an operation the hypotheses leave the two that do not touch
the decoder. -/
theorem onlyDecoderOperationsChangeTheDecoder :
    Obligations.OnlyDecoderOperationsChangeTheDecoder := by
  unfold Obligations.OnlyDecoderOperationsChangeTheDecoder
  intro i s t hfeed hrx hreset hdecReset h
  have hsame : SameDecoder s t := by
    cases exec_effect h with
    | reset hr => exact absurd hr hreset
    | decReset hr => exact absurd hr hdecReset
    | fed b t ev hg => exact absurd hg (hfeed b)
    | answered => exact ⟨rfl, rfl, rfl, rfl, rfl, rfl, rfl, rfl, rfl⟩
    | forwarded m => exact maybeForward_sameDecoder Config.params m s
    | received b g t ev hr => exact absurd hr (hrx b g)
  refine ⟨hsame, fun a => ?_⟩
  obtain ⟨-, -, -, hbuf, -⟩ := hsame
  rw [hbuf]

/-- Settles O44: the FEED inside an operation moves RXC and CEC with its event, the Forward
Controller moves FWC and what was sent with the message it returns. -/
theorem countersFollowTheEvents : Obligations.CountersFollowTheEvents := by
  unfold Obligations.CountersFollowTheEvents
  intro i s t hreset h
  cases exec_effect h with
  | reset hr => exact absurd hr hreset
  | decReset => simp [decoderEventOf, forwardedOf, isFrameReady]
  | fed b t ev hg hfeed =>
    obtain ⟨hrxc, hcec, hfwc, hsent⟩ := (feed_effect hfeed).counters
    exact ⟨hrxc, hcec, hfwc, by simp [hsent, forwardedOf]⟩
  | answered o hev hfwd => simp [hev, hfwd, isFrameReady]
  | forwarded m =>
    obtain ⟨hrxc, hcec, hfwc, hsent⟩ := maybeForward_counters Config.params m s
    exact ⟨hrxc, hcec, hfwc, hsent⟩
  | received b g t ev hr hfeed =>
    obtain ⟨hrxc, hcec, hfwc, hsent⟩ := (feed_effect hfeed).counters
    obtain ⟨-, hkeepRxc, hkeepCec, -⟩ := deliver_keeps Config.params g (t, ev)
    obtain ⟨hev, hmoveFwc, hmoveSent⟩ := deliver_counters Config.params g t ev
    rw [hev, hkeepRxc, hkeepCec, hmoveFwc, hmoveSent, hfwc, hsent]
    exact ⟨hrxc, hcec, rfl, rfl⟩

/-- Settles O43: RXC and CEC stand still or take a saturating increment, and FWC counts only from
below a ceiling that 32 bits hold, so it cannot wrap. -/
theorem countersDecreaseOnlyByReset : Obligations.CountersDecreaseOnlyByReset := by
  unfold Obligations.CountersDecreaseOnlyByReset
  intro i s t hreset h
  obtain ⟨hrxc, hcec, -, -⟩ := countersFollowTheEvents i s t hreset h
  refine ⟨?_, ?_, ?_⟩
  · rw [hrxc]
    split
    · exact le_satInc s.rxc
    · exact BitVec.le_refl s.rxc
  · rcases exec_fwc_cases hreset h with hsame | ⟨hlt, hsucc⟩
    · exact BitVec.le_of_eq hsame.symm
    · exact hsucc ▸ (le_succ_le_of_lt hlt).1
  · rw [hcec]
    split
    · exact le_satInc s.cec
    · exact BitVec.le_refl s.cec

end Sys2Proof.Machine
end

section
/-! SUPPORT. The decoder's invariants (10_state.md R30): what they are read from, that the reset
decoder meets them, and that a FEED keeps them, phase by phase. -/

namespace Sys2Proof.Machine

/-! The invariants of a state whose phase is known are the row of that phase. -/

theorem DecoderInv.of_pre {s : State} (hfill : BufferFilled s) (hp : s.phase = .pre)
    (h : PreInv s) : DecoderInv s := by
  refine ⟨hfill, fun _ => h, ?_, ?_, ?_⟩ <;> simp [hp]

theorem DecoderInv.of_hdr {s : State} (hfill : BufferFilled s) (hp : s.phase = .hdr)
    (h : HdrInv s) : DecoderInv s := by
  refine ⟨hfill, ?_, fun _ => h, ?_, ?_⟩ <;> simp [hp]

theorem DecoderInv.of_pay {s : State} (hfill : BufferFilled s) (hp : s.phase = .pay)
    (h : PayInv s) : DecoderInv s := by
  refine ⟨hfill, ?_, ?_, fun _ => h, ?_⟩ <;> simp [hp]

theorem DecoderInv.of_crc {s : State} (hfill : BufferFilled s) (hp : s.phase = .crc)
    (h : CrcInv s) : DecoderInv s := by
  refine ⟨hfill, ?_, ?_, ?_, fun _ => h⟩ <;> simp [hp]

theorem memByte_congr {s t : State} (hlen : t.len = s.len) (hbuf : t.buf = s.buf) (i : Nat) :
    memByte t i = memByte s i := by
  rw [memByte, memByte, hlen, hbuf]

theorem memSlice_congr {s t : State} (hlen : t.len = s.len) (hbuf : t.buf = s.buf) (i n : Nat) :
    memSlice t i n = memSlice s i n := by
  rw [memSlice, memSlice, hlen, hbuf]

/-- The invariants are about the decoder alone. -/
theorem DecoderInv.of_sameDecoder {s t : State} (hsame : SameDecoder s t) (h : DecoderInv s) :
    DecoderInv t := by
  obtain ⟨hphase, hmpos, hlen, hbuf, hhlen, hhcnt, hplen, hpcnt, htcnt⟩ := hsame
  simpa only [DecoderInv, BufferFilled, PreInv, HdrInv, PayInv, CrcInv, HeaderInPlace, memHalf,
    memByte_congr hlen hbuf, memSlice_congr hlen hbuf, hphase, hmpos, hlen, hbuf, hhlen, hhcnt,
    hplen, hpcnt, htcnt] using h

/-- The reset decoder meets the invariants. -/
theorem DecoderInv.of_isReset {s : State} (h : DecoderIsReset s) : DecoderInv s := by
  obtain ⟨hphase, hmpos, hlen, hbuf, hhlen, hhcnt, hplen, hpcnt, htcnt⟩ := h
  have hrun : memSlice s 0 s.len = some (List.replicate s.len 0xAA) := by
    simp [memSlice, hlen, Memory.readSeq]
  exact .of_pre (by simp [BufferFilled, hbuf, hlen]) hphase
    ⟨by omega, by omega, hrun, hhlen, hhcnt, hplen, hpcnt, htcnt⟩

theorem raiseError_isReset (k : ErrorKind) (s : State) : DecoderIsReset (raiseError k s).1 := by
  cases k <;> exact fullReset_isReset _

/-- A verdict, whatever it is, leaves the decoder reset (R135, R136). -/
theorem judgeTrailer_isReset {s t : State} {ev : DecoderEvent}
    (h : judgeTrailer s = .ok (t, ev)) : DecoderIsReset t := by
  unfold judgeTrailer at h
  split at h
  · split at h
    · split at h <;> cases h
      exact fullReset_isReset _
    · cases h
      exact raiseError_isReset .crcMismatch s
  · cases h

/-- A rule that appends keeps the invariants when what follows the append does: an append that
raises leaves the decoder reset. -/
theorem afterAppend_keeps_inv {b : Byte} {s t : State} {ev : DecoderEvent} {k : State → Fed}
    (h : afterAppend b s k = .ok (t, ev))
    (hk : s.len < Config.cap → k (s.store b) = .ok (t, ev) → DecoderInv t) : DecoderInv t := by
  rcases Nat.lt_or_ge s.len Config.cap with hl | hl
  · rw [afterAppend_room hl] at h
    exact hk hl h
  · rw [afterAppend_full hl] at h
    cases h
    exact .of_isReset (raiseError_isReset .bufferOverflow s)

/-- A store keeps the buffer filled (R23). -/
theorem store_keeps_filled {s : State} (b : Byte) (h : BufferFilled s) :
    BufferFilled (s.store b) := by
  obtain ⟨xs, hbuf, hlen⟩ := exists_ofBytes h
  rw [BufferFilled, State.store_buf, State.store_len, hbuf, hlen, Memory.write_ofBytes,
    Memory.ofBytes_keys, List.length_append, List.length_singleton]

/-- The bytes of a filled buffer after a store. -/
theorem memSlice_store_all {s : State} {xs : List Byte} (b : Byte) (h : BufferFilled s)
    (hxs : memSlice s 0 s.len = some xs) :
    memSlice (s.store b) 0 (s.len + 1) = some (xs ++ [b]) := by
  obtain ⟨ys, hbuf, hlen⟩ := exists_ofBytes h
  have hys : ys = xs := by
    rw [memSlice_ofBytes hbuf hlen (by omega), List.drop_zero,
      List.take_of_length_le (Nat.le_of_eq hlen.symm)] at hxs
    exact Option.some.inj hxs
  subst hys
  have hbuf' : (s.store b).buf = Memory.ofBytes (ys ++ [b]) := by
    rw [State.store_buf, hbuf, hlen, Memory.write_ofBytes]
  have hlen' : (ys ++ [b]).length = s.len + 1 := by
    rw [List.length_append, List.length_singleton, hlen]
  have hin : 0 + (s.len + 1) ≤ (s.store b).len := Nat.le_of_eq (Nat.zero_add _)
  rw [memSlice_ofBytes hbuf' hlen'.symm hin, List.drop_zero,
    List.take_of_length_le (Nat.le_of_eq hlen')]

theorem memHalf_store_below {s : State} {i : Nat} (b : Byte) (h : i + 1 < s.len) :
    memHalf (s.store b) i = memHalf s i := by
  rw [memHalf, memHalf, memByte_store_below b (by omega), memByte_store_below b h]

theorem HeaderInPlace.twenty_le_hlen {s : State} (h : HeaderInPlace s) : 20 ≤ s.hlen.toNat := by
  obtain ⟨-, -, -, -, ⟨hmin, -⟩, -⟩ := h
  exact hmin

/-- A store beyond the header leaves preamble, header and lengths in place. -/
theorem headerInPlace_store {s : State} (b : Byte) (hlen : 28 ≤ s.len) (h : HeaderInPlace s) :
    HeaderInPlace (s.store b) := by
  obtain ⟨hmpos, hpre, hbyte, hcnt, hlegal, hhalf⟩ := h
  refine ⟨hmpos, ?_, ?_, hcnt, hlegal, ?_⟩
  · rw [memSlice_store_below b (by omega), hpre]
  · rw [memByte_store_below b (by omega), hbyte, State.store_hlen]
  · rw [memHalf_store_below b (by omega), hhalf, State.store_plen]

/-- FEED in S_PRE: a match extends the run of 0xAA, the eighth opens the header, a miss restarts. -/
theorem feedPre_keeps_inv {b : Byte} {s t : State} {ev : DecoderEvent} (hfill : BufferFilled s)
    (hp : s.phase = .pre) (hinv : PreInv s) (h : feedPre b s = .ok (t, ev)) : DecoderInv t := by
  obtain ⟨hlen, hmpos, hrun, hhlen, hhcnt, hplen, hpcnt, htcnt⟩ := hinv
  have hfill' := store_keeps_filled 0xAA hfill
  unfold feedPre at h
  split at h
  · rename_i hmatch
    obtain ⟨-, rfl⟩ := (preamble_getElem?_eq_some_iff _ _).mp hmatch
    have hrun' :
        memSlice (s.store 0xAA) 0 (s.len + 1) = some (List.replicate (s.len + 1) 0xAA) := by
      rw [memSlice_store_all 0xAA hfill hrun, List.replicate_succ']
    refine afterAppend_keeps_inv h fun _ hk => ?_
    split at hk
    · rename_i hdone
      cases hk
      have hmpos7 : s.mpos + 1 = 8 := hdone
      have hlen8 : s.len + 1 = 8 + s.hcnt := by omega
      rw [show s.len + 1 = 8 by omega] at hrun'
      exact .of_hdr hfill' rfl ⟨rfl, hrun', hlen8, .inl ⟨hhcnt, hhlen⟩, hplen, hpcnt, htcnt⟩
    · rename_i hmore
      cases hk
      have hmpos' : s.mpos + 1 ≤ 7 := by
        have hne : s.mpos + 1 ≠ 8 := hmore
        omega
      exact .of_pre hfill' hp
        ⟨congrArg (· + 1) hlen, hmpos', hrun', hhlen, hhcnt, hplen, hpcnt, htcnt⟩
  · cases h
    exact .of_isReset ⟨hp, rfl, rfl, rfl, hhlen, hhcnt, hplen, hpcnt, htcnt⟩

/-- The header's last byte: PLEN is what the header says, and the phase follows from it (R129). -/
theorem headerComplete_keeps_inv {s t : State} {ev : DecoderEvent} (hfill : BufferFilled s)
    (hheader : ∀ p, memHalf s 10 = some p → HeaderInPlace { s with plen := p })
    (hlen : s.len = 8 + s.hcnt) (hpcnt : s.pcnt = 0) (htcnt : s.tcnt = 0)
    (h : headerComplete s = .ok (t, ev)) : DecoderInv t := by
  unfold headerComplete at h
  split at h
  · rename_i p hhalf
    cases h
    obtain ⟨-, -, -, (hcnt : s.hlen.toNat = s.hcnt), (hlegal : HeaderLengthLegal s.hlen), -⟩ :=
      hheader p hhalf
    have hcap : s.len ≤ 512 := by omega
    by_cases hp : p = 0
    · have hp0 : p.toNat = 0 := congrArg BitVec.toNat hp
      have hlen' : s.len = 8 + s.hlen.toNat + p.toNat + s.tcnt := by omega
      exact .of_crc hfill (if_pos hp)
        ⟨hheader p hhalf, hpcnt.trans hp0.symm, Nat.le_succ_of_le (Nat.le_of_eq htcnt), hlen',
          hcap⟩
    · have hpos : 0 < p.toNat := Nat.pos_of_ne_zero fun h0 => hp (BitVec.eq_of_toNat_eq h0)
      have hlen' : s.len = 8 + s.hlen.toNat + s.pcnt := by omega
      exact .of_pay hfill (if_neg hp)
        ⟨hheader p hhalf, hpos, Nat.lt_of_le_of_lt (Nat.le_of_eq hpcnt) hpos, hlen', hcap, htcnt⟩
  · cases h

/-- FEED in S_HDR: an illegal length raises, a legal one opens the header, and each later byte is
one more of it until `headerComplete`. -/
theorem feedHdr_keeps_inv {b : Byte} {s t : State} {ev : DecoderEvent} (hfill : BufferFilled s)
    (hp : s.phase = .hdr) (hinv : HdrInv s) (h : feedHdr b s = .ok (t, ev)) : DecoderInv t := by
  obtain ⟨hmpos, hpre, hlen, hlenByte, hplen, hpcnt, htcnt⟩ := hinv
  have hpre' : memSlice (s.store b) 0 8 = some Config.preamble := by
    rw [memSlice_store_below b (by omega), hpre]
  have hfill' := store_keeps_filled b hfill
  unfold feedHdr at h
  split at h
  · rename_i h0
    split at h
    · cases h
      exact .of_isReset (raiseError_isReset .invalidHeaderLength s)
    · rename_i hlegal
      refine afterAppend_keeps_inv h fun _ hk => ?_
      cases hk
      have hat : memByte (s.store b) 8 = some b := by
        rw [show 8 = s.len by omega, memByte_store_at]
      have hlen' : s.len + 1 = 8 + 1 := by omega
      have hlegal' : HeaderLengthLegal b := by omega
      have hlt : 1 < b.toNat := Nat.lt_of_lt_of_le (by decide) hlegal'.1
      exact .of_hdr hfill' hp ⟨hmpos, hpre', hlen', .inr ⟨Nat.le_refl 1, hlt, hlegal', hat⟩,
        hplen, hpcnt, htcnt⟩
  · rename_i h0
    obtain ⟨h1, hlt, hlegal, hbyte⟩ := hlenByte.resolve_left fun hz => h0 hz.1
    have hbyte' : memByte (s.store b) 8 = some s.hlen := by
      rw [memByte_store_below b (by omega), hbyte]
    have hlen' : s.len + 1 = 8 + (s.hcnt + 1) := by omega
    refine afterAppend_keeps_inv h fun _ hk => ?_
    split at hk
    · rename_i hlast
      exact headerComplete_keeps_inv (s := { s.store b with hcnt := s.hcnt + 1 }) hfill'
        (fun p hhalf => ⟨hmpos, hpre', hbyte', hlast.symm, hlegal, hhalf⟩) hlen' hpcnt htcnt hk
    · rename_i hmore
      cases hk
      have hlt' : s.hcnt + 1 < s.hlen.toNat := Nat.lt_of_le_of_ne hlt hmore
      exact .of_hdr hfill' hp ⟨hmpos, hpre', hlen',
        .inr ⟨Nat.le_add_left 1 s.hcnt, hlt', hlegal, hbyte'⟩, hplen, hpcnt, htcnt⟩

/-- FEED in S_PAY: each byte is one more of the payload, the last opens the trailer. -/
theorem feedPay_keeps_inv {b : Byte} {s t : State} {ev : DecoderEvent} (hfill : BufferFilled s)
    (hp : s.phase = .pay) (hinv : PayInv s) (h : feedPay b s = .ok (t, ev)) : DecoderInv t := by
  obtain ⟨hheader, hplen, hpcnt, hlen, -, htcnt⟩ := hinv
  have hhlen := hheader.twenty_le_hlen
  have hheader' := headerInPlace_store b (by omega) hheader
  have hfill' := store_keeps_filled b hfill
  refine afterAppend_keeps_inv h fun hroom hk => ?_
  split at hk
  · rename_i hlast
    cases hk
    have hlen' : s.len + 1 = 8 + s.hlen.toNat + s.plen.toNat + s.tcnt := by
      have hpcnt' : s.pcnt + 1 = s.plen.toNat := hlast
      omega
    exact .of_crc hfill' rfl
      ⟨hheader', hlast, Nat.le_succ_of_le (Nat.le_of_eq htcnt), hlen', hroom⟩
  · rename_i hmore
    cases hk
    have hlen' : s.len + 1 = 8 + s.hlen.toNat + (s.pcnt + 1) := by omega
    have hlt' : s.pcnt + 1 < s.plen.toNat := Nat.lt_of_le_of_ne hpcnt hmore
    exact .of_pay hfill' hp ⟨hheader', hplen, hlt', hlen', hroom, htcnt⟩

/-- FEED in S_CRC: the first trailer byte is counted, the second brings the verdict. -/
theorem feedCrc_keeps_inv {b : Byte} {s t : State} {ev : DecoderEvent} (hfill : BufferFilled s)
    (hp : s.phase = .crc) (hinv : CrcInv s) (h : feedCrc b s = .ok (t, ev)) : DecoderInv t := by
  obtain ⟨hheader, hpcnt, -, hlen, -⟩ := hinv
  have hhlen := hheader.twenty_le_hlen
  have hheader' := headerInPlace_store b (by omega) hheader
  refine afterAppend_keeps_inv h fun hroom hk => ?_
  split at hk
  · rename_i hfirst
    cases hk
    have hlen' : s.len + 1 = 8 + s.hlen.toNat + s.plen.toNat + (s.tcnt + 1) := by omega
    exact .of_crc (store_keeps_filled b hfill) hp
      ⟨hheader', hpcnt, Nat.le_of_lt_succ hfirst, hlen', hroom⟩
  · exact .of_isReset (judgeTrailer_isReset hk)

/-- A FEED keeps the decoder's invariants (R30). -/
theorem feed_keeps_inv {b : Byte} {s t : State} {ev : DecoderEvent} (hinv : DecoderInv s)
    (h : feed b s = .ok (t, ev)) : DecoderInv t := by
  obtain ⟨hfill, hpre, hhdr, hpay, hcrc⟩ := hinv
  cases hp : s.phase with
  | pre => exact feedPre_keeps_inv hfill hp (hpre hp) (feed_of_pre hp b ▸ h)
  | hdr => exact feedHdr_keeps_inv hfill hp (hhdr hp) (feed_of_hdr hp b ▸ h)
  | pay => exact feedPay_keeps_inv hfill hp (hpay hp) (feed_of_pay hp b ▸ h)
  | crc => exact feedCrc_keeps_inv hfill hp (hcrc hp) (feed_of_crc hp b ▸ h)

/-- Every operation keeps the decoder's invariants. -/
theorem exec_keeps_decoderInv {i : Instr} {s t : State} (hinv : DecoderInv s)
    (h : exec i s = .next t) : DecoderInv t := by
  cases exec_effect h with
  | reset => exact .of_isReset (fullReset_isReset s)
  | decReset => exact .of_isReset (fullReset_isReset s)
  | fed b t ev hg hfeed =>
    have hfed : DecoderInv t := feed_keeps_inv hinv hfeed
    exact hfed
  | answered => exact hinv
  | forwarded m => exact .of_sameDecoder (maybeForward_sameDecoder Config.params m s) hinv
  | received b g t ev hr hfeed =>
    obtain ⟨hsame, -, -, -⟩ := deliver_keeps Config.params g (t, ev)
    exact .of_sameDecoder hsame (feed_keeps_inv hinv hfeed)

/-- Every operation keeps FWC at or below the ceiling: RESET clears it, and no other counts at the
ceiling (R187). -/
theorem exec_keeps_hopInv {i : Instr} {s t : State} (hinv : HopInv s)
    (h : exec i s = .next t) : HopInv t := by
  by_cases hi : i = .reset
  · subst hi
    cases h
    exact Nat.zero_le _
  · rcases exec_fwc_cases hi h with hsame | ⟨hlt, hsucc⟩
    · rw [HopInv, hsame]
      exact hinv
    · rw [HopInv, hsucc]
      exact (le_succ_le_of_lt hlt).2

theorem exec_keeps_inv {i : Instr} {s t : State} (hinv : Inv s) (h : exec i s = .next t) :
    Inv t :=
  ⟨exec_keeps_decoderInv hinv.1 h, exec_keeps_hopInv hinv.2 h⟩

end Sys2Proof.Machine
end

section
/-! Proofs of the state family (10_state.md): the state after RESET and the invariants of R30. -/

namespace Sys2Proof.Machine

/-- Settles O42: a step idles or performs one operation, and every operation keeps the invariants;
which operation is presented next is no part of them. -/
theorem stepKeepsTheInvariants : Obligations.StepKeepsTheInvariants := by
  unfold Obligations.StepKeepsTheInvariants
  intro s t hinv h
  rcases takeNext_cases h with ⟨-, rfl⟩ | ⟨r, rest, i, -, -, hexec⟩
  · exact hinv
  · have hinbox : Inv { s with inbox := rest } := hinv
    exact exec_keeps_inv hinbox hexec

/-- Settles O41: the state after RESET is what a full reset leaves, and zero is at or below every
ceiling. -/
theorem resetSatisfiesTheInvariants : Obligations.ResetSatisfiesTheInvariants := by
  unfold Obligations.ResetSatisfiesTheInvariants
  exact ⟨.of_isReset (fullReset_isReset State.reset), Nat.zero_le _⟩

/-- Settles O8: the registers are 0 by definition; the first byte meets the first byte of the
preamble, and what it does there is the rule of FEED.PRE.MATCH or of FEED.PRE.MISS. -/
theorem resetStateIsTheTable : Obligations.ResetStateIsTheTable := by
  unfold Obligations.ResetStateIsTheTable
  refine ⟨fullReset_isReset State.reset, rfl, rfl, rfl, fun b => ?_⟩
  split
  · rename_i hb
    subst hb
    rw [execFeed_of_feed (rulePreMatch_eq_feed ⟨rfl, Nat.zero_le 6, rfl⟩).symm]
    rfl
  · rename_i hb
    rw [execFeed_of_feed (rulePreMiss_eq_feed (s := State.reset) ⟨rfl, hb⟩).symm]
    rfl

end Sys2Proof.Machine
end

section
/-! SUPPORT. A frame while it is collected: every register of the decoder as a function of the
number of bytes taken in since the reset decoder (10_state.md R30, 20_memory.md R76), up to the
trailer's verdict or the overflow. -/

namespace Sys2Proof.Machine

/-- The sequence `w` begins as a frame whose header declares the lengths `hl` and `pl`
(30_encoding.md R91 to R94). -/
structure DeclaresFrame (hl : Byte) (pl : Half) (w : List Byte) : Prop where
  legal : HeaderLengthLegal hl
  preamble : ∀ n < 8, w[n]? = some 0xAA
  hlen : w[8]? = some hl
  plenHi : w[10]? = some (hiByte pl)
  plenLo : w[11]? = some (loByte pl)

theorem DeclaresFrame.twenty_le {hl : Byte} {pl : Half} {w : List Byte}
    (hw : DeclaresFrame hl pl w) : 20 ≤ hl.toNat := hw.legal.1

theorem DeclaresFrame.le_thirty {hl : Byte} {pl : Half} {w : List Byte}
    (hw : DeclaresFrame hl pl w) : hl.toNat ≤ 30 := hw.legal.2

/-- The preamble and the header of `mkframe` (R98) declare the lengths they are made from. -/
theorem declaresFrame_mkHeader {hl : Byte} (f1 : Byte) (pl : Half) (fs rest : List Byte)
    (hlegal : HeaderLengthLegal hl) :
    DeclaresFrame hl pl (Config.preamble ++ mkHeader hl f1 pl fs ++ rest) where
  legal := hlegal
  preamble n hn := by
    rw [List.append_assoc, List.getElem?_append_left hn]
    exact (preamble_getElem?_eq_some_iff n 0xAA).mpr ⟨hn, rfl⟩
  hlen := rfl
  plenHi := rfl
  plenLo := rfl

/-- The phase in which byte `n` of a frame with the declared lengths arrives. -/
def collectingPhase (hl : Byte) (pl : Half) (n : Nat) : Phase :=
  if n < 8 then .pre
  else if n < 8 + hl.toNat then .hdr
  else if n < 8 + hl.toNat + pl.toNat then .pay
  else .crc

/-- The state `s` with the decoder where the first `n` bytes of `w` bring it from reset, when `w` is
a frame with the declared lengths and its last trailer byte is not yet among them. -/
def collected (hl : Byte) (pl : Half) (w : List Byte) (s : State) (n : Nat) : State :=
  { s with
    phase := collectingPhase hl pl n
    mpos := if n < 8 then n else 0
    len := n
    buf := Memory.ofBytes (w.take n)
    hlen := if n ≤ 8 then 0 else hl
    hcnt := min (n - 8) hl.toNat
    plen := if n < 8 + hl.toNat then 0 else pl
    pcnt := min (n - (8 + hl.toNat)) pl.toNat
    tcnt := n - (8 + hl.toNat + pl.toNat) }

section
variable {hl : Byte} {pl : Half} {w : List Byte} {s : State} {n : Nat} {b : Byte}

theorem collectingPhase_pre (hn : n < 8) : collectingPhase hl pl n = .pre := if_pos hn

theorem collectingPhase_hdr (h8 : 8 ≤ n) (hn : n < 8 + hl.toNat) :
    collectingPhase hl pl n = .hdr := by
  rw [collectingPhase, if_neg (by omega), if_pos hn]

theorem collectingPhase_pay (hhdr : 8 + hl.toNat ≤ n) (hn : n < 8 + hl.toNat + pl.toNat) :
    collectingPhase hl pl n = .pay := by
  rw [collectingPhase, if_neg (by omega), if_neg (by omega), if_pos hn]

theorem collectingPhase_crc (hn : 8 + hl.toNat + pl.toNat ≤ n) :
    collectingPhase hl pl n = .crc := by
  rw [collectingPhase, if_neg (by omega), if_neg (by omega), if_neg (by omega)]

/-- The phase a complete header selects is the one its lengths say (R129, D6). -/
theorem collectingPhase_header_end :
    collectingPhase hl pl (8 + hl.toNat) = if pl = 0 then .crc else .pay := by
  split
  · rename_i h0
    exact collectingPhase_crc (by simp [h0])
  · rename_i h0
    have hpos : pl.toNat ≠ 0 := fun hz => h0 (BitVec.eq_of_toNat_eq hz)
    exact collectingPhase_pay (by omega) (by omega)

/-- Before the first byte the decoder is the reset one. -/
theorem collected_zero (hs : DecoderIsReset s) : collected hl pl w s 0 = s := by
  obtain ⟨hphase, hmpos, hlen, hbuf, hhlen, hhcnt, hplen, hpcnt, htcnt⟩ := hs
  cases s
  simp_all [collected, collectingPhase]

theorem write_ofBytes_take (hb : w[n]? = some b) :
    (Memory.ofBytes (w.take n)).write n b = Memory.ofBytes (w.take (n + 1)) := by
  obtain ⟨hn, -⟩ := List.getElem?_eq_some_iff.mp hb
  have hwrite := Memory.write_ofBytes (w.take n) b
  rwa [List.length_take_of_le (Nat.le_of_lt hn), ← Option.toList_some b, ← hb,
    ← List.take_add_one] at hwrite

theorem memByte_take {t : State} {i : Nat} (hlen : t.len = n)
    (hbuf : t.buf = Memory.ofBytes (w.take n)) (hi : i < n) : memByte t i = w[i]? := by
  rw [memByte, if_pos (hlen ▸ hi), hbuf, Memory.read_ofBytes, List.getElem?_take_of_lt hi]

/-- A rule that appends byte `n` after the bytes before it goes on with one byte more. -/
theorem afterAppend_take {t : State} (hlen : t.len = n) (hbuf : t.buf = Memory.ofBytes (w.take n))
    (hroom : n < Config.cap) (hb : w[n]? = some b) (k : State → Fed) :
    afterAppend b t k = k { t with len := n + 1, buf := Memory.ofBytes (w.take (n + 1)) } := by
  rw [afterAppend_room (hlen ▸ hroom), State.store, hbuf, hlen, write_ofBytes_take hb]

/-- Completing the header reads PLEN from bytes 10 and 11 (R94, R129). -/
theorem headerComplete_take {t : State} (hw : DeclaresFrame hl pl w) (hlen : t.len = n)
    (hbuf : t.buf = Memory.ofBytes (w.take n)) (hn : 12 ≤ n) :
    headerComplete t =
      .ok ({ t with plen := pl, phase := if pl = 0 then .crc else .pay }, .pending) := by
  have hhi : memByte t 10 = some (hiByte pl) :=
    (memByte_take hlen hbuf (by omega)).trans hw.plenHi
  have hlo : memByte t 11 = some (loByte pl) :=
    (memByte_take hlen hbuf (by omega)).trans hw.plenLo
  have hhalf : memHalf t (Config.preLen + Config.plenOff) = some pl := by
    change memHalf t 10 = some pl
    rw [memHalf, hhi, hlo]
    exact congrArg some (be16_hiByte_loByte pl)
  rw [headerComplete, hhalf]

/-! One byte more, phase by phase: the table's row that takes it is known from its number, and that
row moves the registers as `collected` says. -/

theorem feed_collected_pre (hw : DeclaresFrame hl pl w) (hb : w[n]? = some b)
    (hroom : n < Config.cap) (hn : n < 8) :
    feed b (collected hl pl w s n) = .ok (collected hl pl w s (n + 1), .pending) := by
  have hmin := hw.twenty_le
  have hp : (collected hl pl w s n).phase = .pre := collectingPhase_pre hn
  have hmpos : (collected hl pl w s n).mpos = n := if_pos hn
  obtain rfl : 0xAA = b := Option.some.inj ((hw.preamble n hn).symm.trans hb)
  rcases Nat.lt_or_eq_of_le (Nat.le_of_lt_succ hn) with h7 | h7
  · rw [← rulePreMatch_eq_feed ⟨hp, by omega, rfl⟩, rulePreMatch,
      afterAppend_take rfl rfl hroom hb]
    simp (disch := omega) only [collected, collectingPhase, if_pos]
    congr 3 <;> omega
  · rw [← rulePreDone_eq_feed ⟨hp, by omega, rfl⟩, rulePreDone,
      afterAppend_take rfl rfl hroom hb]
    simp (disch := omega) only [collected, collectingPhase, if_pos, if_neg]
    congr 3 <;> omega

theorem feed_collected_hdr (hw : DeclaresFrame hl pl w) (hb : w[n]? = some b)
    (hroom : n < Config.cap) (h8 : 8 ≤ n) (hn : n < 8 + hl.toNat) :
    feed b (collected hl pl w s n) = .ok (collected hl pl w s (n + 1), .pending) := by
  have hmin := hw.twenty_le
  have hp : (collected hl pl w s n).phase = .hdr := collectingPhase_hdr h8 hn
  have hcnt : (collected hl pl w s n).hcnt = n - 8 := Nat.min_eq_left (by omega)
  rcases Nat.eq_or_lt_of_le h8 with rfl | h9
  · obtain rfl : hl = b := Option.some.inj (hw.hlen.symm.trans hb)
    rw [← ruleHdrLenOk_eq_feed ⟨hp, hcnt, hw.legal⟩, ruleHdrLenOk,
      afterAppend_take rfl rfl hroom hb]
    simp (disch := omega) only [collected, collectingPhase, if_pos, if_neg]
    congr 3 <;> omega
  have hlen : (collected hl pl w s n).hlen = hl := if_neg (by omega)
  rcases Nat.lt_or_eq_of_le (Nat.succ_le_of_lt hn) with hmore | hlast
  · rw [← ruleHdrBody_eq_feed ⟨hp, by omega, by rw [hlen]; omega⟩, ruleHdrBody,
      afterAppend_take rfl rfl hroom hb]
    simp (disch := omega) only [collected, collectingPhase, if_pos, if_neg]
    congr 3 <;> omega
  · rw [← ruleHdrDone_eq_feed ⟨hp, by omega, by rw [hlen]; omega⟩, ruleHdrDone,
      afterAppend_take rfl rfl hroom hb, headerComplete_take (n := n + 1) hw rfl rfl (by omega),
      ← collectingPhase_header_end (hl := hl), ← hlast]
    simp (disch := omega) only [collected, if_neg]
    congr 3 <;> omega

theorem feed_collected_pay (hw : DeclaresFrame hl pl w) (hb : w[n]? = some b)
    (hroom : n < Config.cap) (hhdr : 8 + hl.toNat ≤ n) (hn : n < 8 + hl.toNat + pl.toNat) :
    feed b (collected hl pl w s n) = .ok (collected hl pl w s (n + 1), .pending) := by
  have hmin := hw.twenty_le
  have hp : (collected hl pl w s n).phase = .pay := collectingPhase_pay hhdr hn
  have hcnt : (collected hl pl w s n).pcnt = n - (8 + hl.toNat) := Nat.min_eq_left (by omega)
  have hplen : (collected hl pl w s n).plen = pl := if_neg (by omega)
  rcases Nat.lt_or_eq_of_le (Nat.succ_le_of_lt hn) with hmore | hlast
  · rw [← rulePayByte_eq_feed ⟨hp, hroom, by rw [hplen]; omega⟩, rulePayByte,
      afterAppend_take rfl rfl hroom hb]
    simp (disch := omega) only [collected, collectingPhase, if_pos, if_neg]
    congr 3 <;> omega
  · rw [← rulePayDone_eq_feed ⟨hp, hroom, by rw [hplen]; omega⟩, rulePayDone,
      afterAppend_take rfl rfl hroom hb]
    simp (disch := omega) only [collected, collectingPhase, if_neg]
    congr 3 <;> omega

theorem feed_collected_crc (hw : DeclaresFrame hl pl w) (hb : w[n]? = some b)
    (hroom : n < Config.cap) (hn : n = 8 + hl.toNat + pl.toNat) :
    feed b (collected hl pl w s n) = .ok (collected hl pl w s (n + 1), .pending) := by
  have hmin := hw.twenty_le
  have hp : (collected hl pl w s n).phase = .crc := collectingPhase_crc (Nat.le_of_eq hn.symm)
  have hcnt : (collected hl pl w s n).tcnt = 0 := Nat.sub_eq_zero_of_le (Nat.le_of_eq hn)
  rw [← ruleCrcFirst_eq_feed ⟨hp, hroom, hcnt⟩, ruleCrcFirst, afterAppend_take rfl rfl hroom hb]
  simp (disch := omega) only [collected, collectingPhase, if_neg]
  congr 3 <;> omega

/-- Every byte of a frame but its last is Pending and is taken in, while there is room for it. -/
theorem feed_collected (hw : DeclaresFrame hl pl w) (hb : w[n]? = some b)
    (hroom : n < Config.cap) (hn : n ≤ 8 + hl.toNat + pl.toNat) :
    feed b (collected hl pl w s n) = .ok (collected hl pl w s (n + 1), .pending) := by
  by_cases hpre : n < 8
  · exact feed_collected_pre hw hb hroom hpre
  by_cases hhdr : n < 8 + hl.toNat
  · exact feed_collected_hdr hw hb hroom (by omega) hhdr
  by_cases hpay : n < 8 + hl.toNat + pl.toNat
  · exact feed_collected_pay hw hb hroom (by omega) hpay
  · exact feed_collected_crc hw hb hroom (by omega)

/-- From the reset decoder, the first `n + 1` bytes of a frame, its last not among them. -/
theorem feedAll_take_succ (hw : DeclaresFrame hl pl w) (hs : DecoderIsReset s)
    (hlen : n < w.length) (hroom : n < Config.cap) (hn : n ≤ 8 + hl.toNat + pl.toNat) :
    feedAll (w.take (n + 1)) s =
      some (List.replicate (n + 1) .pending,
        collected hl pl w (s.returning (.event .pending)) (n + 1)) := by
  induction n with
  | zero =>
    have hfirst := feed_collected (s := s) hw (List.getElem?_eq_getElem hlen) hroom hn
    rw [collected_zero hs] at hfirst
    rw [← List.take_append_getElem hlen]
    exact feedAll_one hfirst
  | succ n ih =>
    have hprev := ih (Nat.lt_of_succ_lt hlen) (Nat.lt_of_succ_lt hroom) (Nat.le_of_succ_le hn)
    have hlast := feed_collected (s := s.returning (.event .pending)) hw
      (List.getElem?_eq_getElem hlen) hroom hn
    rw [← List.take_append_getElem hlen, feedAll_append _ hprev, feedAll_one hlast,
      List.replicate_succ' (n := n + 1)]
    rfl

/-- A payload or trailer byte that arrives when the buffer is full raises (R132, R134). -/
theorem feed_collected_full (hfull : n = Config.cap) (hhdr : 8 + hl.toNat ≤ n) (b : Byte) :
    feed b (collected hl pl w s n) = .ok (s.fullReset, .error .bufferOverflow) := by
  have hraise : ruleOverflow (collected hl pl w s n) = .ok (s.fullReset, .error .bufferOverflow) :=
    rfl
  by_cases hpay : n < 8 + hl.toNat + pl.toNat
  · rw [← hraise, ruleOverflow_eq_feed_of_pay ⟨collectingPhase_pay hhdr hpay, hfull⟩]
  · rw [← hraise, ruleOverflow_eq_feed_of_crc ⟨collectingPhase_crc (by omega), hfull⟩]

end

/-- A full reset leaves the reset decoder as it is. -/
theorem fullReset_of_isReset {s : State} (hs : DecoderIsReset s) : s.fullReset = s := by
  obtain ⟨hphase, hmpos, hlen, hbuf, hhlen, hhcnt, hplen, hpcnt, htcnt⟩ := hs
  cases s
  simp_all [State.fullReset]

end Sys2Proof.Machine
end

section
/-! SUPPORT. The bytes of a two-byte value (20_memory.md R65), and that every operation keeps the
canonical form of BUF (R60, 60_exceptions.md R218). -/

namespace Sys2Proof.Machine

@[simp] theorem hiByte_be16 (hi lo : Byte) : hiByte (be16 hi lo) = hi := by
  have hlo := lo.isLt
  have hhi := hi.isLt
  apply BitVec.eq_of_toNat_eq
  rw [hiByte, BitVec.extractLsb'_toNat, be16_toNat, Nat.shiftRight_eq_div_pow]
  omega

@[simp] theorem loByte_be16 (hi lo : Byte) : loByte (be16 hi lo) = lo := by
  have hlo := lo.isLt
  apply BitVec.eq_of_toNat_eq
  rw [loByte, BitVec.extractLsb'_toNat, be16_toNat, Nat.shiftRight_zero]
  omega

/-- A FEED stores below CAP or empties the buffer. -/
theorem FeedEffect.keeps_wf {b : Byte} {s t : State} {ev : DecoderEvent}
    (h : FeedEffect b s t ev) (hwf : s.buf.wf = true) : t.buf.wf = true := by
  cases h with
  | restart => exact restartMatch_wf s
  | stored ph mp hc pc tc hl pl hroom => exact store_keeps_wf b hwf hroom
  | raised k => cases k <;> exact Memory.nil_wf
  | delivered => exact fullReset_wf s.countReceived

/-- Every operation keeps the canonical form of the buffer. -/
theorem exec_keeps_wf {i : Instr} {s t : State} (hwf : s.buf.wf = true)
    (h : exec i s = .next t) : t.buf.wf = true := by
  cases exec_effect h with
  | reset => exact fullReset_wf s
  | decReset => exact fullReset_wf s
  | fed b t ev hg hfeed => exact (feed_effect hfeed).keeps_wf hwf
  | answered => exact hwf
  | forwarded m =>
    obtain ⟨-, -, -, hbuf, -⟩ := maybeForward_sameDecoder Config.params m s
    exact (congrArg Memory.wf hbuf).trans hwf
  | received b g t ev hr hfeed =>
    obtain ⟨⟨-, -, -, hbuf, -⟩, -⟩ := deliver_keeps Config.params g (t, ev)
    exact (congrArg Memory.wf hbuf).trans ((feed_effect hfeed).keeps_wf hwf)

end Sys2Proof.Machine
end

section
/-! Proofs of the memory family (20_memory.md). -/

namespace Sys2Proof.Machine

/-- Settles O57: the first 512 bytes lack at least the last trailer byte, so all of them are
collected, and the next one finds the buffer full. -/
theorem overlongFrameOverflowsAtByte513 : Obligations.OverlongFrameOverflowsAtByte513 := by
  unfold Obligations.OverlongFrameOverflowsAtByte513
  intro h f1 plen fs rest s hlegal _ hs hover hlen
  have hw := declaresFrame_mkHeader f1 plen fs rest hlegal
  generalize Config.preamble ++ mkHeader h f1 plen fs ++ rest = w at hw hlen
  have hmax := hw.le_thirty
  have hcap : Config.cap = 511 + 1 := rfl
  have hlast : 511 + 1 < w.length := by omega
  have hpending := feedAll_take_succ (n := 511) hw hs (by omega) (by decide) (by omega)
  have hoverflow := feed_collected_full (hl := h) (pl := plen) (w := w)
    (s := s.returning (.event .pending)) hcap.symm (by omega) w[511 + 1]
  have hsplit : w.take (511 + 1) ++ [w[511 + 1]] = w := by
    rw [List.take_append_getElem, List.take_of_length_le (by omega)]
  have hreset : (s.returning (.event .pending)).fullReset = s.returning (.event .pending) :=
    fullReset_of_isReset hs
  rw [hreset] at hoverflow
  calc feedAll w s = feedAll (w.take (511 + 1) ++ [w[511 + 1]]) s := by rw [hsplit]
    _ = some (List.replicate (511 + 1) .pending ++ [.error .bufferOverflow],
          { s with out := .event (.error .bufferOverflow) }) := by
      rw [feedAll_append _ hpending, feedAll_one hoverflow]
      rfl

/-- Settles O17: a two-byte read is `be16` of the two cells, a value fixed by its two bytes. -/
theorem twoByteReadsAreBigEndian : Obligations.TwoByteReadsAreBigEndian := by
  unfold Obligations.TwoByteReadsAreBigEndian
  intro s i hi lo hhi hlo
  have hhalf : memHalf s i = some (be16 hi lo) := by
    rw [memHalf, hhi, hlo]
  exact ⟨be16 hi lo, hhalf, be16_toNat hi lo, hiByte_be16 hi lo, loByte_be16 hi lo⟩

/-- Settles O18: at CAP the append raises; below, it is a store, and a store touches one cell and
LEN. -/
theorem bufAppendIsBoundsChecked : Obligations.BufAppendIsBoundsChecked := by
  unfold Obligations.BufAppendIsBoundsChecked
  intro b s
  rcases bufAppend_cases b s with ⟨hfull, hraise⟩ | ⟨hroom, hstore⟩
  · exact ⟨fun _ => hraise, fun hlt => absurd hfull (Nat.not_le_of_lt hlt)⟩
  · have hother : ∀ a, a ≠ s.len → (s.store b).buf.read a = s.buf.read a :=
      fun a ha => Memory.read_write_other s.buf s.len a b ha
    exact ⟨fun hcap => absurd hcap (Nat.ne_of_lt hroom),
      fun _ => ⟨s.store b, hstore, rfl, memByte_store_at s b, hother, rfl⟩⟩

/-- Settles O19: a step idles or performs one operation, and every operation leaves the buffer as it
was, empties it, or stores below CAP. -/
theorem stepKeepsBufferCanonical : Obligations.StepKeepsBufferCanonical := by
  unfold Obligations.StepKeepsBufferCanonical
  intro s t hwf h
  rcases takeNext_cases h with ⟨-, rfl⟩ | ⟨r, rest, i, -, -, hexec⟩
  · exact hwf
  · exact exec_keeps_wf (s := { s with inbox := rest }) hwf hexec

end Sys2Proof.Machine
end

section
/-! SUPPORT. What a request decodes to (30_encoding.md R101, R102): the two fields of its word, the
word of each row decoded, and the two things `decode` can do with any word. -/

namespace Sys2Proof

@[simp] theorem opField_opWord (op : OpCode) (b : Byte) : opField (opWord op b) = op :=
  BitVec.extractLsb'_append_eq_left

@[simp] theorem byteField_opWord (op : OpCode) (b : Byte) : byteField (opWord op b) = b :=
  BitVec.extractLsb'_append_eq_right

/-- A word is its two fields. -/
theorem opWord_fields (w : OpWord) : opWord (opField w) (byteField w) = w := by
  calc opWord (opField w) (byteField w) = w.extractLsb' 0 (4 + 8) :=
        BitVec.extractLsb'_append_extractLsb'_eq_extractLsb' (start₁ := 0) (len₁ := 8) rfl
    _ = w := BitVec.extractLsb'_eq_self

/-- The word of a code known as a number. -/
theorem opWord_of_code {w : OpWord} {op : OpCode} (h : (opField w).toNat = op.toNat) (b : Byte) :
    opWord op b = opWord (opField w) b := by
  rw [BitVec.eq_of_toNat_eq h]

/-! A word without a byte operand decodes exactly when bits 7:0 are zero (R102). -/

theorem decodeNoByte_eq_ok_iff {w : OpWord} {i j : Instr} :
    decodeNoByte w i = .ok j ↔ byteField w = 0 ∧ i = j := by
  by_cases h : byteField w = 0
  · simp [decodeNoByte, h]
  · rw [decodeNoByte, if_neg h]
    exact ⟨(nomatch ·), fun ⟨hbyte, _⟩ => absurd hbyte h⟩

theorem decodeNoByte_eq_error_iff {w : OpWord} {i : Instr} :
    decodeNoByte w i = .error .byteBitsNotZero ↔ byteField w ≠ 0 := by
  by_cases h : byteField w = 0
  · simp [decodeNoByte, h]
  · rw [decodeNoByte, if_neg h]
    exact iff_of_true rfl h

/-- Every FEED.* row has the word of FEED and decodes to it (R103). -/
theorem decode_feedWord (b : Byte) : decode (.ofWord (opWord 0x1 b)) = .ok (.feed b) := by
  simp [decode, Request.ofWord]

/-- A code of 8 or above is the reserved row, whatever the byte (R105). -/
theorem decode_of_reservedCode {r : Request} (h : 8 ≤ (opField r.word).toNat) :
    decode r = .ok (.reserved (opField r.word) (byteField r.word)) := by
  obtain ⟨n, hn⟩ := Nat.exists_eq_add_of_le' h
  rw [decode, hn]
  rfl

/-- Decoding the word of a row gives its generic row (R102). -/
theorem decode_encode {i : Instr} (hwf : i.wellFormed = true) :
    decode (encode i) = .ok i.generic := by
  cases i with
  | reset | decReset | statsRead =>
    simp [encode, decode, decodeNoByte, Request.ofWord, Instr.generic]
  | crc16 x | transform x | maybeForward m | maybeForwardFwd m | maybeForwardNone m =>
    simp [encode, decode, decodeNoByte, Instr.generic]
  | rxByte b g => simp [encode, decode, Instr.generic]
  | reserved op b =>
    have hcode : 8 ≤ (opField (encode (.reserved op b)).word).toNat := by
      simpa [encode, Request.ofWord, Instr.wellFormed] using hwf
    simpa [encode, Request.ofWord, Instr.generic] using decode_of_reservedCode hcode
  | _ => exact decode_feedWord _

/-- The instruction is a well-formed generic row with the word `w`. -/
structure IsGenericRowOf (i : Instr) (w : OpWord) : Prop where
  wellFormed : i.wellFormed = true
  generic : i.generic = i
  word : (encode i).word = w

/-- The codes of the rows of mask 0xFFF, whose words carry no byte (R102). -/
abbrev codesWithoutByte : List Nat := [0, 2, 3, 4, 5, 6]

/-- All that `decode` can do with a word: one without a byte operand is held to bits 7:0 zero, any
other is an operation whatever its byte. -/
theorem decode_cases (r : Request) :
    ((opField r.word).toNat ∈ codesWithoutByte ∧
      ∃ i, decode r = decodeNoByte r.word i ∧ IsGenericRowOf i (opWord (opField r.word) 0)) ∨
    ((opField r.word).toNat ∉ codesWithoutByte ∧
      ∃ i, decode r = .ok i ∧ IsGenericRowOf i r.word) := by
  have hword := opWord_fields r.word
  match hn : (opField r.word).toNat with
  | 0 =>
    exact .inl ⟨by decide, .reset, by simp only [decode, hn],
      rfl, rfl, opWord_of_code (op := 0) hn 0⟩
  | 1 =>
    have hw : opWord 1 (byteField r.word) = r.word := (opWord_of_code hn _).trans hword
    exact .inr ⟨by decide, .feed (byteField r.word), by simp only [decode, hn], rfl, rfl, hw⟩
  | 2 =>
    exact .inl ⟨by decide, .decReset, by simp only [decode, hn],
      rfl, rfl, opWord_of_code (op := 2) hn 0⟩
  | 3 =>
    exact .inl ⟨by decide, .crc16 r.seq, by simp only [decode, hn],
      rfl, rfl, opWord_of_code (op := 3) hn 0⟩
  | 4 =>
    exact .inl ⟨by decide, .transform r.seq, by simp only [decode, hn],
      rfl, rfl, opWord_of_code (op := 4) hn 0⟩
  | 5 =>
    exact .inl ⟨by decide, .maybeForward ⟨r.seq, r.sig⟩, by simp only [decode, hn],
      rfl, rfl, opWord_of_code (op := 5) hn 0⟩
  | 6 =>
    exact .inl ⟨by decide, .statsRead, by simp only [decode, hn],
      rfl, rfl, opWord_of_code (op := 6) hn 0⟩
  | 7 =>
    have hw : opWord 7 (byteField r.word) = r.word := (opWord_of_code hn _).trans hword
    exact .inr ⟨by decide, .rxByte (byteField r.word) r.sig, by simp only [decode, hn],
      rfl, rfl, hw⟩
  | n + 8 =>
    have hcode : 8 ≤ (opField r.word).toNat := by omega
    exact .inr ⟨by simp, _, decode_of_reservedCode hcode, decide_eq_true hcode, rfl, hword⟩

/-- Whatever decodes is a row of the request's word. -/
theorem isGenericRowOf_of_decode {r : Request} {i : Instr} (h : decode r = .ok i) :
    IsGenericRowOf i r.word := by
  rcases decode_cases r with ⟨-, j, hdecode, hrow⟩ | ⟨-, j, hdecode, hrow⟩
  · obtain ⟨hbyte, rfl⟩ := decodeNoByte_eq_ok_iff.mp (hdecode.symm.trans h)
    rwa [← hbyte, opWord_fields] at hrow
  · obtain rfl : j = i := Except.ok.inj (hdecode.symm.trans h)
    exact hrow

/-- The one rejection of the decoder (R102, log 8). -/
theorem decode_error_iff (r : Request) :
    decode r = .error .byteBitsNotZero ↔
      (opField r.word).toNat ∈ codesWithoutByte ∧ byteField r.word ≠ 0 := by
  rcases decode_cases r with ⟨hcode, j, hdecode, -⟩ | ⟨hcode, j, hdecode, -⟩
  · rw [hdecode, decodeNoByte_eq_error_iff]
    exact (and_iff_right hcode).symm
  · rw [hdecode]
    exact ⟨(nomatch ·), fun ⟨hmem, _⟩ => absurd hmem hcode⟩

end Sys2Proof
end

section
/-! Proofs of the encoding family (30_encoding.md): the operation words. -/

namespace Sys2Proof.Machine

/-- Settles O1: a row's word is decoded row by row. -/
theorem decodeOfEncodeIsTheGenericRow : Obligations.DecodeOfEncodeIsTheGenericRow := by
  unfold Obligations.DecodeOfEncodeIsTheGenericRow
  intro i hwf
  exact ⟨decode_encode hwf, fun hgeneric => (decode_encode hwf).trans (congrArg _ hgeneric)⟩

/-- Settles O2: what decodes is a generic row with the request's word, and decoding a row's word
gives its generic row. -/
theorem encodeOfDecodeIsTheWord : Obligations.EncodeOfDecodeIsTheWord := by
  unfold Obligations.EncodeOfDecodeIsTheWord
  intro r i h
  obtain ⟨hwf, hgeneric, hword⟩ := isGenericRowOf_of_decode h
  exact ⟨hwf, hgeneric, hword, (decode_encode hwf).trans (congrArg _ hgeneric)⟩

/-- Settles O3: the decoder has one rejection, and the step refuses what the decoder rejects. -/
theorem strayByteBitsAreRefused : Obligations.StrayByteBitsAreRefused := by
  unfold Obligations.StrayByteBitsAreRefused
  refine ⟨decode_error_iff, fun s r rest hinbox hcode hbyte => ?_⟩
  exact step_refused hinbox ((decode_error_iff r).mpr ⟨hcode, hbyte⟩)

/-- Settles O4: a code of 8 or above decodes to the reserved row, whose meaning is the refusal. -/
theorem reservedCodesAreRefused : Obligations.ReservedCodesAreRefused := by
  unfold Obligations.ReservedCodesAreRefused
  refine ⟨fun op b s => rfl, fun s r rest hinbox hcode => ?_⟩
  rw [stepRunsTheDecodedOperation s r rest _ hinbox (decode_of_reservedCode hcode)]
  rfl

/-- Settles O5: each word is a closed one, and the decoder computes. -/
theorem tableWordsDecodeToTheirRows : Obligations.TableWordsDecodeToTheirRows := by
  unfold Obligations.TableWordsDecodeToTheirRows
  decide

/-- Settles O53: the codes are the definitions', and an event's first code is 0, 1 or 2. -/
theorem codesOfPhasesAndEvents : Obligations.CodesOfPhasesAndEvents := by
  unfold Obligations.CodesOfPhasesAndEvents
  refine ⟨rfl, rfl, rfl, rfl, rfl, fun _ => rfl, rfl, rfl, rfl, fun ev => ?_⟩
  cases ev with
  | pending => exact (by decide : (0 : BitVec 2) ≠ 3)
  | frameReady f => exact (by decide : (1 : BitVec 2) ≠ 3)
  | error k => exact (by decide : (2 : BitVec 2) ≠ 3)

end Sys2Proof.Machine
end

section
/-! SUPPORT. What FEED does where a row of the table is selected and has room, the reads a filled
buffer defines (10_state.md R23), and the conditions of the fourteen rows phase by phase
(30_encoding.md R103). -/

namespace Sys2Proof.Machine

/-! A filled buffer has a value in every cell below LEN. -/

theorem exists_memByte {s : State} {i : Nat} (hfill : BufferFilled s) (hi : i < s.len) :
    ∃ v, memByte s i = some v := by
  obtain ⟨xs, hbuf, hlen⟩ := exists_ofBytes hfill
  have hin : i < xs.length := hlen ▸ hi
  exact ⟨xs[i], (memByte_ofBytes hbuf hlen i).trans (List.getElem?_eq_getElem hin)⟩

theorem exists_memHalf {s : State} {i : Nat} (hfill : BufferFilled s) (hin : i + 1 < s.len) :
    ∃ v, memHalf s i = some v := by
  obtain ⟨hi, hhi⟩ := exists_memByte hfill (Nat.lt_of_succ_lt hin)
  obtain ⟨lo, hlo⟩ := exists_memByte hfill hin
  exact ⟨be16 hi lo, by rw [memHalf, hhi, hlo]⟩

theorem exists_memSlice {s : State} {i n : Nat} (hfill : BufferFilled s) (hin : i + n ≤ s.len) :
    ∃ xs, memSlice s i n = some xs := by
  obtain ⟨xs, hbuf, hlen⟩ := exists_ofBytes hfill
  exact ⟨(xs.drop i).take n, memSlice_ofBytes hbuf hlen hin⟩

/-- The verdict on a trailer from the two reads it is made of (R103). -/
theorem trailerMatches_of_reads {s : State} {b hi : Byte} {body : List Byte}
    (hhi : memByte s (s.len - 1) = some hi) (hbody : memSlice s 0 (s.len - 1) = some body) :
    trailerMatches s b = some (decide (be16 hi b = crc16 body)) := by
  rw [trailerMatches, hhi, hbody]

theorem exists_trailerMatches {s : State} (hfill : BufferFilled s) (hpos : 0 < s.len) (b : Byte) :
    ∃ v, trailerMatches s b = some v := by
  obtain ⟨hi, hhi⟩ := exists_memByte (i := s.len - 1) hfill (by omega)
  obtain ⟨body, hbody⟩ := exists_memSlice (i := 0) (n := s.len - 1) hfill (by omega)
  exact ⟨_, trailerMatches_of_reads hhi hbody⟩

/-! The rows that store a byte, as equations of FEED. -/

theorem feed_of_selHdrBody {s : State} (h : SelHdrBody s) (hroom : s.len < Config.cap) (b : Byte) :
    feed b s = .ok ({ s.store b with hcnt := s.hcnt + 1 }, .pending) := by
  rw [← ruleHdrBody_eq_feed h, ruleHdrBody, afterAppend_room hroom]
  rfl

theorem headerComplete_of_memHalf {s : State} {p : Half}
    (h : memHalf s (Config.preLen + Config.plenOff) = some p) :
    headerComplete s =
      .ok ({ s with plen := p, phase := if p = 0 then .crc else .pay }, .pending) := by
  rw [headerComplete, h]

theorem feed_of_selHdrDone {s : State} {p : Half} (h : SelHdrDone s) (hroom : s.len < Config.cap)
    (hlen : 11 < s.len) (hplen : memHalf s 10 = some p) (b : Byte) :
    feed b s =
      .ok ({ s.store b with hcnt := s.hcnt + 1, plen := p, phase := if p = 0 then .crc else .pay },
        .pending) := by
  rw [← ruleHdrDone_eq_feed h, ruleHdrDone, afterAppend_room hroom]
  exact headerComplete_of_memHalf ((memHalf_store_below b hlen).trans hplen)

theorem feed_of_selPayByte {s : State} (h : SelPayByte s) (b : Byte) :
    feed b s = .ok ({ s.store b with pcnt := s.pcnt + 1 }, .pending) := by
  have ⟨_, hroom, _⟩ := h
  rw [← rulePayByte_eq_feed h, rulePayByte, afterAppend_room hroom]
  rfl

theorem feed_of_selPayDone {s : State} (h : SelPayDone s) (b : Byte) :
    feed b s = .ok ({ s.store b with pcnt := s.pcnt + 1, phase := .crc }, .pending) := by
  have ⟨_, hroom, _⟩ := h
  rw [← rulePayDone_eq_feed h, rulePayDone, afterAppend_room hroom]
  rfl

theorem feed_of_selCrcFirst {s : State} (h : SelCrcFirst s) (b : Byte) :
    feed b s = .ok ({ s.store b with tcnt := 1 }, .pending) := by
  have ⟨_, hroom, _⟩ := h
  rw [← ruleCrcFirst_eq_feed h, ruleCrcFirst, afterAppend_room hroom]

theorem feed_of_selCrcBad {s : State} {b : Byte} (h : SelCrcBad s b) :
    feed b s = .ok ({ s.fullReset with cec := satInc s.cec }, .error .crcMismatch) := by
  have ⟨_, hroom, _⟩ := h
  rw [← ruleCrcBad_eq_feed h, ruleCrcBad, afterAppend_room hroom]
  rfl

/-! Which rows the registers select, under the invariants of the phase. -/

theorem HdrInv.sel {s : State} (h : HdrInv s) (hp : s.phase = .hdr) (h0 : s.hcnt ≠ 0) :
    SelHdrBody s ∨ SelHdrDone s := by
  obtain ⟨-, -, -, hlengths, -⟩ := h
  obtain ⟨h1, hlt, -⟩ := hlengths.resolve_left fun ⟨hz, _⟩ => h0 hz
  rcases Nat.lt_or_eq_of_le (Nat.succ_le_of_lt hlt) with hmore | hlast
  · exact .inl ⟨hp, h1, hmore⟩
  · exact .inr ⟨hp, h1, hlast⟩

/-- Where the header's last byte is due, its payload length is in BUF. -/
theorem HdrInv.lt_len_of_done {s : State} (h : HdrInv s) (hsel : SelHdrDone s) : 11 < s.len := by
  obtain ⟨-, -, hlen, hlengths, -⟩ := h
  obtain ⟨-, h1, hlast⟩ := hsel
  rcases hlengths with ⟨hz, -⟩ | ⟨-, -, ⟨hmin, -⟩, -⟩
  · omega
  · have hmin' : 20 ≤ s.hlen.toNat := hmin
    omega

theorem PayInv.sel {s : State} (h : PayInv s) (hp : s.phase = .pay) (hroom : s.len < Config.cap) :
    SelPayByte s ∨ SelPayDone s := by
  obtain ⟨-, -, hlt, -⟩ := h
  rcases Nat.lt_or_eq_of_le (Nat.succ_le_of_lt hlt) with hmore | hlast
  · exact .inl ⟨hp, hroom, hmore⟩
  · exact .inr ⟨hp, hroom, hlast⟩

/-! In each phase only that phase's rows can be selected. -/

theorem feedRows_of_pre {s : State} (hp : s.phase = .pre) (b : Byte) :
    feedRows s b =
      [decide (SelPreMatch s b), decide (SelPreDone s b), decide (SelPreMiss s b)] ++
        List.replicate 11 false := by
  simp [feedRows, hp, List.replicate]

theorem feedRows_of_hdr {s : State} (hp : s.phase = .hdr) (b : Byte) :
    feedRows s b =
      List.replicate 3 false ++
        [decide (SelHdrLenOk s b), decide (SelHdrLenBad s b), decide (SelHdrBody s),
          decide (SelHdrDone s)] ++
        List.replicate 7 false := by
  simp [feedRows, hp, List.replicate]

theorem feedRows_of_pay {s : State} (hp : s.phase = .pay) (b : Byte) :
    feedRows s b =
      List.replicate 7 false ++
        [decide (SelPayByte s), decide (SelPayDone s), decide (SelPayOvf s)] ++
        List.replicate 4 false := by
  simp [feedRows, hp, List.replicate]

theorem feedRows_of_crc {s : State} (hp : s.phase = .crc) (b : Byte) :
    feedRows s b =
      List.replicate 10 false ++
        [decide (SelCrcFirst s), decide (SelCrcOvf s), decide (SelCrcOk s b),
          decide (SelCrcBad s b)] := by
  simp [feedRows, hp, List.replicate]

/-! Of a phase's conditions the registers and the byte make one true and the others false. -/

theorem count_feedRows_pre {s : State} (hp : s.phase = .pre) (hinv : PreInv s) (b : Byte) :
    (feedRows s b).count true = 1 := by
  obtain ⟨-, hmpos, -⟩ := hinv
  rw [feedRows_of_pre hp]
  by_cases hb : b = 0xAA
  · rcases Nat.lt_or_eq_of_le hmpos with hlt | h7
    · rw [decide_eq_true (p := SelPreMatch s b) ⟨hp, Nat.le_of_lt_succ hlt, hb⟩,
        decide_eq_false (p := SelPreDone s b) fun ⟨_, h7, _⟩ => Nat.ne_of_lt hlt h7,
        decide_eq_false (p := SelPreMiss s b) fun ⟨_, hne⟩ => hne hb]
      rfl
    · rw [decide_eq_false (p := SelPreMatch s b) fun h => by omega,
        decide_eq_true (p := SelPreDone s b) ⟨hp, h7, hb⟩,
        decide_eq_false (p := SelPreMiss s b) fun ⟨_, hne⟩ => hne hb]
      rfl
  · rw [decide_eq_false (p := SelPreMatch s b) fun ⟨_, _, hAA⟩ => hb hAA,
      decide_eq_false (p := SelPreDone s b) fun ⟨_, _, hAA⟩ => hb hAA,
      decide_eq_true (p := SelPreMiss s b) ⟨hp, hb⟩]
    rfl

theorem count_feedRows_hdr {s : State} (hp : s.phase = .hdr) (hinv : HdrInv s) (b : Byte) :
    (feedRows s b).count true = 1 := by
  rw [feedRows_of_hdr hp]
  by_cases h0 : s.hcnt = 0
  · rw [decide_eq_false (p := SelHdrBody s) fun h => by omega,
      decide_eq_false (p := SelHdrDone s) fun h => by omega]
    by_cases hlegal : HeaderLengthLegal b
    · rw [decide_eq_true (p := SelHdrLenOk s b) ⟨hp, h0, hlegal⟩,
        decide_eq_false (p := SelHdrLenBad s b) fun ⟨_, _, hbad⟩ => hbad hlegal]
      rfl
    · rw [decide_eq_false (p := SelHdrLenOk s b) fun ⟨_, _, hok⟩ => hlegal hok,
        decide_eq_true (p := SelHdrLenBad s b) ⟨hp, h0, hlegal⟩]
      rfl
  · rw [decide_eq_false (p := SelHdrLenOk s b) fun ⟨_, hz, _⟩ => h0 hz,
      decide_eq_false (p := SelHdrLenBad s b) fun ⟨_, hz, _⟩ => h0 hz]
    rcases hinv.sel hp h0 with hsel | hsel
    · rw [decide_eq_true hsel, decide_eq_false (p := SelHdrDone s) fun h => by omega]
      rfl
    · rw [decide_eq_false (p := SelHdrBody s) fun h => by omega, decide_eq_true hsel]
      rfl

theorem count_feedRows_pay {s : State} (hp : s.phase = .pay) (hinv : PayInv s) (b : Byte) :
    (feedRows s b).count true = 1 := by
  have ⟨_, _, _, _, hcap, _⟩ := hinv
  rw [feedRows_of_pay hp]
  rcases Nat.lt_or_eq_of_le hcap with hroom | hfull
  · rw [decide_eq_false (p := SelPayOvf s) fun ⟨_, hfull⟩ => Nat.ne_of_lt hroom hfull]
    rcases hinv.sel hp hroom with hsel | hsel
    · rw [decide_eq_true hsel, decide_eq_false (p := SelPayDone s) fun h => by omega]
      rfl
    · rw [decide_eq_false (p := SelPayByte s) fun h => by omega, decide_eq_true hsel]
      rfl
  · rw [decide_eq_false (p := SelPayByte s) fun ⟨_, hlt, _⟩ => Nat.ne_of_lt hlt hfull,
      decide_eq_false (p := SelPayDone s) fun ⟨_, hlt, _⟩ => Nat.ne_of_lt hlt hfull,
      decide_eq_true (p := SelPayOvf s) ⟨hp, hfull⟩]
    rfl

theorem count_feedRows_crc {s : State} (hfill : BufferFilled s) (hp : s.phase = .crc)
    (hinv : CrcInv s) (b : Byte) : (feedRows s b).count true = 1 := by
  obtain ⟨-, -, htcnt, hlen, hcap⟩ := hinv
  rw [feedRows_of_crc hp]
  rcases Nat.lt_or_eq_of_le hcap with hroom | hfull
  · rw [decide_eq_false (p := SelCrcOvf s) fun ⟨_, hfull⟩ => Nat.ne_of_lt hroom hfull]
    rcases Nat.le_one_iff_eq_zero_or_eq_one.mp htcnt with h0 | h1
    · rw [decide_eq_true (p := SelCrcFirst s) ⟨hp, hroom, h0⟩,
        decide_eq_false (p := SelCrcOk s b) fun h => by omega,
        decide_eq_false (p := SelCrcBad s b) fun h => by omega]
      rfl
    · rw [decide_eq_false (p := SelCrcFirst s) fun h => by omega]
      obtain ⟨v, hv⟩ := exists_trailerMatches hfill (by omega) b
      cases v with
      | true =>
        rw [decide_eq_true (p := SelCrcOk s b) ⟨hp, hroom, h1, hv⟩,
          decide_eq_false (p := SelCrcBad s b) fun ⟨_, _, _, hf⟩ => (nomatch hv.symm.trans hf)]
        rfl
      | false =>
        rw [decide_eq_false (p := SelCrcOk s b) fun ⟨_, _, _, ht⟩ => (nomatch hv.symm.trans ht),
          decide_eq_true (p := SelCrcBad s b) ⟨hp, hroom, h1, hv⟩]
        rfl
  · rw [decide_eq_false (p := SelCrcFirst s) fun ⟨_, hlt, _⟩ => Nat.ne_of_lt hlt hfull,
      decide_eq_true (p := SelCrcOvf s) ⟨hp, hfull⟩,
      decide_eq_false (p := SelCrcOk s b) fun ⟨_, hlt, _⟩ => Nat.ne_of_lt hlt hfull,
      decide_eq_false (p := SelCrcBad s b) fun ⟨_, hlt, _⟩ => Nat.ne_of_lt hlt hfull]
    rfl

end Sys2Proof.Machine
end

section
/-! SUPPORT. A frame with any two trailer bytes, up to the verdict (30_encoding.md R96, R98). -/

namespace Sys2Proof.Machine

theorem length_mkBody {h : Byte} {fs p : List Byte} (hfits : FrameFits h fs p) (f1 : Byte) :
    (mkBody h f1 fs p).length = 8 + h.toNat + p.length := by
  obtain ⟨-, hfill, -⟩ := hfits
  simp only [mkBody, mkHeader, Config.preamble, List.length_append, List.length_cons,
    List.length_nil]
  omega

theorem FrameFits.le_512 {h : Byte} {fs p : List Byte} (hfits : FrameFits h fs p) :
    h.toNat + 10 + p.length ≤ 512 := by
  obtain ⟨-, -, hcap⟩ := hfits
  exact hcap

theorem toNat_plen_of_frameFits {h : Byte} {fs p : List Byte} (hfits : FrameFits h fs p) :
    (BitVec.ofNat 16 p.length).toNat = p.length := by
  have hcap := hfits.le_512
  rw [BitVec.toNat_ofNat]
  omega

/-- The decoder before the last trailer byte of a frame: what FEED has taken in is the body and the
first trailer byte. -/
def beforeVerdict (h f1 x : Byte) (fs p : List Byte) (s : State) : State :=
  collected h (BitVec.ofNat 16 p.length) (mkBody h f1 fs p ++ [x]) s (h.toNat + p.length + 9)

section
variable {h f1 x : Byte} {fs p : List Byte} {s : State}

/-- From the reset decoder, body and first trailer byte are all Pending. -/
theorem feedAll_mkBody_first (hfits : FrameFits h fs p) (hs : DecoderIsReset s) :
    feedAll (mkBody h f1 fs p ++ [x]) s =
      some (List.replicate (h.toNat + p.length + 9) .pending,
        beforeVerdict h f1 x fs p (s.returning (.event .pending))) := by
  have ⟨hlegal, _, _⟩ := hfits
  have hcap := hfits.le_512
  have hplen := toNat_plen_of_frameFits hfits
  have hlen : (mkBody h f1 fs p ++ [x]).length = h.toNat + p.length + 8 + 1 := by
    rw [List.length_append, List.length_singleton, length_mkBody hfits]
    omega
  have hw : DeclaresFrame h (BitVec.ofNat 16 p.length) (mkBody h f1 fs p ++ [x]) := by
    rw [mkBody, List.append_assoc]
    exact declaresFrame_mkHeader f1 _ fs (p ++ [x]) hlegal
  have htake := feedAll_take_succ (n := h.toNat + p.length + 8) hw hs (by omega)
    (show _ < 512 by omega) (by omega)
  rwa [List.take_of_length_le (Nat.le_of_eq hlen)] at htake

/-- The verdict compares the two trailer bytes with the CRC of the body (R96, R135). -/
theorem trailerMatches_beforeVerdict (hfits : FrameFits h fs p) (y : Byte) :
    trailerMatches (beforeVerdict h f1 x fs p s) y =
      some (decide (be16 x y = crc16 (mkBody h f1 fs p))) := by
  have hbody := length_mkBody hfits f1
  have hlen : h.toNat + p.length + 9 = (mkBody h f1 fs p ++ [x]).length := by
    rw [List.length_append, List.length_singleton, hbody]
    omega
  have hbuf : (beforeVerdict h f1 x fs p s).buf = Memory.ofBytes (mkBody h f1 fs p ++ [x]) :=
    congrArg Memory.ofBytes (List.take_of_length_le (Nat.le_of_eq hlen.symm))
  have hlast : (beforeVerdict h f1 x fs p s).len - 1 = (mkBody h f1 fs p).length := by
    change h.toNat + p.length + 9 - 1 = _
    omega
  apply trailerMatches_of_reads
  · rw [memByte_ofBytes hbuf hlen, hlast, List.getElem?_concat_length]
  · rw [memSlice_ofBytes hbuf hlen (by omega), hlast, List.drop_zero, List.take_left]

/-- What selects the row of the last trailer byte beside the verdict (R103). -/
theorem beforeVerdict_registers (hfits : FrameFits h fs p) :
    (beforeVerdict h f1 x fs p s).phase = .crc ∧
    (beforeVerdict h f1 x fs p s).len < Config.cap ∧
    (beforeVerdict h f1 x fs p s).tcnt = 1 := by
  have hplen := toNat_plen_of_frameFits hfits
  have hcap := hfits.le_512
  have hphase : collectingPhase h (BitVec.ofNat 16 p.length) (h.toNat + p.length + 9) = .crc :=
    collectingPhase_crc (by omega)
  refine ⟨hphase, ?_, ?_⟩
  · change h.toNat + p.length + 9 < 512
    omega
  · change h.toNat + p.length + 9 - _ = 1
    omega

end

theorem fullReset_beforeVerdict (h f1 x : Byte) (fs p : List Byte) (s : State) :
    (beforeVerdict h f1 x fs p s).fullReset = s.fullReset := rfl

end Sys2Proof.Machine
end

section
/-! Proofs of the encoding family (30_encoding.md): the rows of FEED and the trailer. -/

namespace Sys2Proof.Machine

/-- Settles O56: all bytes but the last are collected, and the last meets the row FEED.CRC.BAD. -/
theorem corruptedTrailerIsCountedOnce : Obligations.CorruptedTrailerIsCountedOnce := by
  unfold Obligations.CorruptedTrailerIsCountedOnce
  intro h f1 x y fs p s hfits hs hcrc
  obtain ⟨hp, hroom, htcnt⟩ := beforeVerdict_registers (f1 := f1) (x := x)
    (s := s.returning (.event .pending)) hfits
  have hverdict := trailerMatches_beforeVerdict (f1 := f1) (x := x)
    (s := s.returning (.event .pending)) hfits y
  rw [decide_eq_false hcrc] at hverdict
  have hlast := feed_of_selCrcBad ⟨hp, hroom, htcnt, hverdict⟩
  have hreset : (s.returning (.event .pending)).fullReset = s.returning (.event .pending) :=
    fullReset_of_isReset hs
  rw [fullReset_beforeVerdict, hreset] at hlast
  rw [List.append_cons, feedAll_append _ (feedAll_mkBody_first hfits hs), feedAll_one hlast]
  rfl

/-- Settles O35: in each phase the registers and the byte select one row. -/
theorem exactlyOneRowHandlesEachFeed : Obligations.ExactlyOneRowHandlesEachFeed := by
  unfold Obligations.ExactlyOneRowHandlesEachFeed
  intro s b ⟨hfill, hpre, hhdr, hpay, hcrc⟩
  cases hp : s.phase with
  | pre => exact count_feedRows_pre hp (hpre hp) b
  | hdr => exact count_feedRows_hdr hp (hhdr hp) b
  | pay => exact count_feedRows_pay hp (hpay hp) b
  | crc => exact count_feedRows_crc hfill hp (hcrc hp) b

/-- Settles O54: the registers alone select the row, and what the row makes of them does not depend
on the byte it stores. -/
theorem collectedBytesDecideNothing : Obligations.CollectedBytesDecideNothing := by
  unfold Obligations.CollectedBytesDecideNothing
  rintro s ⟨hfill, -, hhdr, hpay, -⟩ hroom (⟨hp, h0⟩ | hp | ⟨hp, h0⟩)
  · have hinv := hhdr hp
    rcases hinv.sel hp h0 with hsel | hsel
    · exact ⟨{ s with len := s.len + 1, hcnt := s.hcnt + 1, out := .event .pending },
        fun b => execFeed_of_feed (feed_of_selHdrBody hsel hroom b)⟩
    · have hlen := hinv.lt_len_of_done hsel
      obtain ⟨p, hplen⟩ := exists_memHalf (i := 10) hfill hlen
      exact ⟨{ s with len := s.len + 1, hcnt := s.hcnt + 1, plen := p,
                      phase := if p = 0 then .crc else .pay, out := .event .pending },
        fun b => execFeed_of_feed (feed_of_selHdrDone hsel hroom hlen hplen b)⟩
  · rcases (hpay hp).sel hp hroom with hsel | hsel
    · exact ⟨{ s with len := s.len + 1, pcnt := s.pcnt + 1, out := .event .pending },
        fun b => execFeed_of_feed (feed_of_selPayByte hsel b)⟩
    · exact ⟨{ s with len := s.len + 1, pcnt := s.pcnt + 1, phase := .crc,
                      out := .event .pending },
        fun b => execFeed_of_feed (feed_of_selPayDone hsel b)⟩
  · exact ⟨{ s with len := s.len + 1, tcnt := 1, out := .event .pending },
      fun b => execFeed_of_feed (feed_of_selCrcFirst ⟨hp, hroom, h0⟩ b)⟩

end Sys2Proof.Machine
end

section
/-! SUPPORT. What FEED does in the rows of the table that match, miss, open the header, overflow or
deliver (40_frame_decoder.md R123 to R135), and the cell a row stores to, from the invariants. -/

namespace Sys2Proof.Machine

/-- The word of a FEED row (30_encoding.md R102). -/
theorem opWord_feed (b : Byte) : opWord 0x1 b = 0x100 + b.setWidth 12 := by
  revert b; decide

/-- What FEED answers, its row answers (R102). -/
theorem exec_row_of_feed {i : Instr} {b : Byte} {s t : State} {ev : DecoderEvent}
    (hg : i.generic = .feed b) (h : feed b s = .ok (t, ev)) :
    exec i s = exec (.feed b) s ∧ exec i s = .next (t.returning (.event ev)) := by
  have hrow := exec_eq_feed_of_generic hg s
  exact ⟨hrow, hrow.trans (execFeed_of_feed h)⟩

/-- A store, where LEN is known before and after. -/
theorem State.store_of_len {s : State} {n m : Nat} (b : Byte) (hn : s.len = n)
    (hm : s.len + 1 = m) : s.store b = { s with buf := s.buf.write n b, len := m } := by
  rw [State.store, hn, ← hm, hn]

theorem feed_of_selPreMatch {s : State} (h : SelPreMatch s 0xAA) (hroom : s.len < Config.cap) :
    feed 0xAA s = .ok ({ s.store 0xAA with mpos := s.mpos + 1 }, .pending) := by
  rw [← rulePreMatch_eq_feed h, rulePreMatch, afterAppend_room hroom]
  rfl

theorem feed_of_selPreDone {s : State} (h : SelPreDone s 0xAA) (hroom : s.len < Config.cap) :
    feed 0xAA s = .ok ({ s.store 0xAA with mpos := 0, phase := .hdr }, .pending) := by
  rw [← rulePreDone_eq_feed h, rulePreDone, afterAppend_room hroom]

theorem feed_of_selPreMiss {s : State} {b : Byte} (h : SelPreMiss s b) :
    feed b s = .ok (s.restartMatch, .pending) :=
  (rulePreMiss_eq_feed h).symm

theorem feed_of_selHdrLenOk {s : State} {b : Byte} (h : SelHdrLenOk s b)
    (hroom : s.len < Config.cap) :
    feed b s = .ok ({ s.store b with hlen := b, hcnt := 1 }, .pending) := by
  rw [← ruleHdrLenOk_eq_feed h, ruleHdrLenOk, afterAppend_room (s := { s with hlen := b }) hroom]
  rfl

theorem feed_of_selHdrLenBad {s : State} {b : Byte} (h : SelHdrLenBad s b) :
    feed b s = .ok (s.fullReset, .error .invalidHeaderLength) :=
  (ruleHdrLenBad_eq_feed h).symm

theorem feed_of_selPayOvf {s : State} (h : SelPayOvf s) (b : Byte) :
    feed b s = .ok (s.fullReset, .error .bufferOverflow) :=
  (ruleOverflow_eq_feed_of_pay h b).symm

theorem feed_of_selCrcOvf {s : State} (h : SelCrcOvf s) (b : Byte) :
    feed b s = .ok (s.fullReset, .error .bufferOverflow) :=
  (ruleOverflow_eq_feed_of_crc h b).symm

/-- A verdict on the trailer rests on two reads below LEN (R103). -/
theorem reads_of_trailerMatches {s : State} {b : Byte} {v : Bool}
    (h : trailerMatches s b = some v) :
    ∃ hi body, memByte s (s.len - 1) = some hi ∧ memSlice s 0 (s.len - 1) = some body ∧
      v = decide (be16 hi b = crc16 body) := by
  unfold trailerMatches at h
  split at h
  · rename_i hi body hhi hbody
    cases h
    exact ⟨hi, body, hhi, hbody, rfl⟩
  · cases h

/-- The last cell and the byte stored after it, read as one value. -/
theorem memHalf_store_last {s : State} {hi : Byte} (b : Byte)
    (hhi : memByte s (s.len - 1) = some hi) :
    memHalf (s.store b) (s.len - 1) = some (be16 hi b) := by
  have hpos := lt_len_of_memByte hhi
  have hlast : s.len - 1 + 1 = s.len := by omega
  rw [memHalf, memByte_store_below b hpos, hhi, hlast, memByte_store_at]

/-- A slice that reads as bytes ends at or below LEN (R11). -/
theorem le_len_of_memSlice {s : State} {i n : Nat} {xs : List Byte}
    (h : memSlice s i n = some xs) : i + n ≤ s.len := by
  unfold memSlice at h
  split at h
  · assumption
  · cases h

theorem feed_of_selCrcOk {s : State} {b hi : Byte} {payload : List Byte} (h : SelCrcOk s b)
    (hhi : memByte s (s.len - 1) = some hi)
    (hpayload : memSlice s (8 + s.hlen.toNat) s.plen.toNat = some payload) :
    feed b s = .ok ({ s.fullReset with rxc := satInc s.rxc },
      .frameReady ⟨s.hlen, s.plen, payload, be16 hi b⟩) := by
  have ⟨_, hroom, _⟩ := h
  have hstored : memSlice (s.store b) (Config.preLen + s.hlen.toNat) s.plen.toNat = some payload :=
    (memSlice_store_below b (le_len_of_memSlice hpayload)).trans hpayload
  rw [← ruleCrcOk_eq_feed h, ruleCrcOk_of_trailer hroom (memHalf_store_last b hhi), hstored]
  rfl

/-! LEN, and the room for one byte more, as the invariants of the phase give them (R30). -/

theorem PreInv.room {s : State} (h : PreInv s) : s.len < Config.cap := by
  obtain ⟨hlen, hmpos, -⟩ := h
  change s.len < 512
  omega

theorem HdrInv.room {s : State} (h : HdrInv s) : s.len < Config.cap := by
  obtain ⟨-, -, hlen, hlengths, -⟩ := h
  change s.len < 512
  rcases hlengths with ⟨h0, -⟩ | ⟨-, hlt, ⟨-, (hmax : s.hlen.toNat ≤ 30)⟩, -⟩
  · omega
  · omega

theorem HdrInv.len_eq {s : State} (h : HdrInv s) : s.len = 8 + s.hcnt := by
  obtain ⟨-, -, hlen, -⟩ := h
  exact hlen

theorem PayInv.len_eq {s : State} (h : PayInv s) : s.len = 8 + s.hlen.toNat + s.pcnt := by
  obtain ⟨-, -, -, hlen, -⟩ := h
  exact hlen

theorem CrcInv.len_eq {s : State} (h : CrcInv s) :
    s.len = 8 + s.hlen.toNat + s.plen.toNat + s.tcnt := by
  obtain ⟨-, -, -, hlen, -⟩ := h
  exact hlen

/-- In S_CRC the whole payload is in BUF (R138). -/
theorem CrcInv.exists_payload {s : State} (h : CrcInv s) (hfill : BufferFilled s) :
    ∃ payload, memSlice s (8 + s.hlen.toNat) s.plen.toNat = some payload := by
  have hlen := h.len_eq
  exact exists_memSlice hfill (by omega)

end Sys2Proof.Machine
end

section
/-! Proofs of the decoder family (40_frame_decoder.md): FEED row by row. -/

namespace Sys2Proof.Machine

/-- Settles O34: each row's rule is the listing where the row is selected, and elsewhere the row is
the listing by definition. -/
theorem rowsAgreeWithTheListing : Obligations.RowsAgreeWithTheListing := by
  unfold Obligations.RowsAgreeWithTheListing
  intro i b s hg
  exact exec_eq_feed_of_generic hg s

/-- Settles O20: under the invariants LEN is MPOS, so the byte goes to cell MPOS. -/
theorem preambleByteMatches : Obligations.PreambleByteMatches := by
  unfold Obligations.PreambleByteMatches
  intro s ⟨_, hpre, _⟩ hsel
  have hinv := hpre hsel.1
  have ⟨hlen, _⟩ := hinv
  have hfeed := feed_of_selPreMatch hsel hinv.room
  rw [State.store_of_len 0xAA hlen (congrArg (· + 1) hlen)] at hfeed
  exact exec_row_of_feed rfl hfeed

/-- Settles O22: a byte that is no preamble byte restarts the match. -/
theorem preambleMissRestarts : Obligations.PreambleMissRestarts := by
  unfold Obligations.PreambleMissRestarts
  intro s b hsel
  exact exec_row_of_feed rfl (feed_of_selPreMiss hsel)

/-- Settles O23: before the header LEN is 8, so the length byte goes to cell 8. -/
theorem headerLengthAccepted : Obligations.HeaderLengthAccepted := by
  unfold Obligations.HeaderLengthAccepted
  intro s b ⟨_, _, hhdr, _⟩ hsel
  have ⟨hp, h0, _⟩ := hsel
  have hinv := hhdr hp
  have hlen : s.len = 8 := by rw [hinv.len_eq, h0]
  have hfeed := feed_of_selHdrLenOk hsel hinv.room
  rw [State.store_of_len b hlen (congrArg (· + 1) hlen)] at hfeed
  exact exec_row_of_feed rfl hfeed

/-- Settles O24: an illegal length byte is an error, whose entry is the full reset. -/
theorem headerLengthRejected : Obligations.HeaderLengthRejected := by
  unfold Obligations.HeaderLengthRejected
  intro s b hsel
  exact exec_row_of_feed rfl (feed_of_selHdrLenBad hsel)

/-- In S_HDR with HCNT = 0 the byte is the header length: it is taken or rejected (R126, R127). -/
theorem exec_feed_headerLength {s : State} (hinv : DecoderInv s) (hp : s.phase = .hdr)
    (h0 : s.hcnt = 0) (b : Byte) :
    exec (.feed b) s =
      if 20 ≤ b.toNat ∧ b.toNat ≤ 30 then
        .next { s with hlen := b, buf := s.buf.write 8 b, len := 9, hcnt := 1,
                       out := .event .pending }
      else .next { s.fullReset with out := .event (.error .invalidHeaderLength) } := by
  split
  · rename_i hlegal
    obtain ⟨hrow, hanswer⟩ := headerLengthAccepted s b hinv ⟨hp, h0, hlegal⟩
    exact hrow.symm.trans hanswer
  · rename_i hillegal
    obtain ⟨hrow, hanswer⟩ := headerLengthRejected s b ⟨hp, h0, hillegal⟩
    exact hrow.symm.trans hanswer

/-- Settles O21: the eighth match leaves the invariants of S_HDR, which hold the preamble and take
the next byte as the header length. -/
theorem preambleCompletes : Obligations.PreambleCompletes := by
  unfold Obligations.PreambleCompletes
  refine ⟨rfl, fun s hinv hsel => ?_⟩
  have ⟨_, hpre, _⟩ := hinv
  have ⟨hp, h7, _⟩ := hsel
  have hpreInv := hpre hp
  have ⟨hmpos, _, _, _, hcnt, _⟩ := hpreInv
  have hlen : s.len = 7 := hmpos.trans h7
  have hfeed := feed_of_selPreDone hsel hpreInv.room
  rw [State.store_of_len 0xAA hlen (congrArg (· + 1) hlen)] at hfeed
  have hexec := execFeed_of_feed hfeed
  have hinv' := exec_keeps_decoderInv hinv hexec
  have ⟨_, _, hhdr, _⟩ := hinv'
  have ⟨_, hpreamble, _⟩ := hhdr rfl
  exact ⟨_, rfl, (exec_eq_feed_of_generic rfl s).trans hexec, hexec, hpreamble, hcnt,
    exec_feed_headerLength hinv' rfl hcnt⟩

/-- Settles O25: under the invariants LEN is 8 + HCNT. -/
theorem headerBodyByteStored : Obligations.HeaderBodyByteStored := by
  unfold Obligations.HeaderBodyByteStored
  intro s b ⟨_, _, hhdr, _⟩ hsel
  have hinv := hhdr hsel.1
  have hlen := hinv.len_eq
  have hfeed := feed_of_selHdrBody hsel hinv.room b
  rw [State.store_of_len (m := 9 + s.hcnt) b hlen (by omega)] at hfeed
  exact ⟨opWord_feed b, exec_row_of_feed rfl hfeed⟩

/-- Settles O26: LEN is 8 + HCNT with HCNT one below HLEN, and cells 10 and 11 are below it. -/
theorem headerCompletes : Obligations.HeaderCompletes := by
  unfold Obligations.HeaderCompletes
  intro s b ⟨hfill, _, hhdr, _⟩ hsel
  have ⟨hp, _, hlast⟩ := hsel
  have hinv := hhdr hp
  have hlen := hinv.len_eq
  have hin := hinv.lt_len_of_done hsel
  obtain ⟨p, hplen⟩ := exists_memHalf (i := 10) hfill hin
  have hfeed := feed_of_selHdrDone hsel hinv.room hin hplen b
  rw [State.store_of_len (n := 7 + s.hlen.toNat) (m := 8 + s.hlen.toNat) b (by omega) (by omega),
    hlast] at hfeed
  obtain ⟨hrow, hanswer⟩ := exec_row_of_feed (i := .feedHdrDone b) rfl hfeed
  exact ⟨hrow, p, hplen, hanswer⟩

/-- Settles O27: under the invariants LEN is 8 + HLEN + PCNT. -/
theorem payloadByteStored : Obligations.PayloadByteStored := by
  unfold Obligations.PayloadByteStored
  intro s b ⟨_, _, _, hpay, _⟩ hsel
  have hlen := (hpay hsel.1).len_eq
  have hfeed := feed_of_selPayByte hsel b
  rw [State.store_of_len (m := 9 + s.hlen.toNat + s.pcnt) b hlen (by omega)] at hfeed
  exact ⟨opWord_feed b, exec_row_of_feed rfl hfeed⟩

/-- Settles O28: the last payload byte opens the trailer whatever LEN has become, and a full buffer
in S_CRC selects the row FEED.CRC.OVF. -/
theorem payloadCompletes : Obligations.PayloadCompletes := by
  unfold Obligations.PayloadCompletes
  intro s b ⟨_, _, _, hpay, _⟩ hsel
  have ⟨hp, _, hlast⟩ := hsel
  have hlen := (hpay hp).len_eq
  have hfeed := feed_of_selPayDone hsel b
  rw [State.store_of_len (n := 7 + s.hlen.toNat + s.plen.toNat)
    (m := 8 + s.hlen.toNat + s.plen.toNat) b (by omega) (by omega), hlast] at hfeed
  have hexec := execFeed_of_feed hfeed
  exact ⟨_, rfl, opWord_feed b, (exec_eq_feed_of_generic rfl s).trans hexec, hexec,
    fun hfull c => execFeed_of_feed (feed_of_selCrcOvf ⟨rfl, hfull⟩ c)⟩

/-- Settles O29: with LEN at CAP the append raises. -/
theorem payloadOverflows : Obligations.PayloadOverflows := by
  unfold Obligations.PayloadOverflows
  intro s b hsel
  exact exec_row_of_feed rfl (feed_of_selPayOvf hsel b)

/-- Settles O30: under the invariants LEN is 8 + HLEN + PLEN before the trailer. -/
theorem firstTrailerByteStored : Obligations.FirstTrailerByteStored := by
  unfold Obligations.FirstTrailerByteStored
  intro s b ⟨_, _, _, _, hcrc⟩ hsel
  have ⟨hp, _, h0⟩ := hsel
  have hlen : s.len = 8 + s.hlen.toNat + s.plen.toNat := by rw [(hcrc hp).len_eq, h0]; rfl
  have hfeed := feed_of_selCrcFirst hsel b
  rw [State.store_of_len (m := 9 + s.hlen.toNat + s.plen.toNat) b hlen (by omega)] at hfeed
  exact ⟨opWord_feed b, exec_row_of_feed rfl hfeed⟩

/-- Settles O31: the append raises before anything is compared. -/
theorem trailerOverflows : Obligations.TrailerOverflows := by
  unfold Obligations.TrailerOverflows
  intro s b hsel
  exact exec_row_of_feed rfl (feed_of_selCrcOvf hsel b)

/-- Settles O32: the verdict's two reads and the payload's lie below LEN, which is 8 + HLEN + PLEN
and one trailer byte. -/
theorem matchingTrailerDelivers : Obligations.MatchingTrailerDelivers := by
  unfold Obligations.MatchingTrailerDelivers
  intro s b ⟨hfill, _, _, _, hcrc⟩ hsel
  have ⟨hp, _, h1, hmatch⟩ := hsel
  have hlen := (hcrc hp).len_eq
  obtain ⟨hi, body, hhi, hbody, hverdict⟩ := reads_of_trailerMatches hmatch
  obtain ⟨payload, hpayload⟩ := (hcrc hp).exists_payload hfill
  obtain ⟨hrow, hanswer⟩ :=
    exec_row_of_feed (i := .feedCrcOk b) rfl (feed_of_selCrcOk hsel hhi hpayload)
  have hlast : s.len - 1 = 8 + s.hlen.toNat + s.plen.toNat := by omega
  rw [hlast] at hhi hbody
  exact ⟨hrow, hi, body, payload, hhi, hbody, hpayload, of_decide_eq_true hverdict.symm, hanswer⟩

/-- Settles O33: the error's entry counts in CEC alone, and its event carries the kind alone. -/
theorem differingTrailerIsAMismatch : Obligations.DifferingTrailerIsAMismatch := by
  unfold Obligations.DifferingTrailerIsAMismatch
  intro s b hsel
  have ⟨_, _, _, hmatch⟩ := hsel
  obtain ⟨hi, body, hhi, hbody, hverdict⟩ := reads_of_trailerMatches hmatch
  obtain ⟨hrow, hanswer⟩ := exec_row_of_feed (i := .feedCrcBad b) rfl (feed_of_selCrcBad hsel)
  exact ⟨opWord_feed b, hrow, ⟨hi, body, hhi, hbody, of_decide_eq_false hverdict.symm⟩, hanswer⟩

end Sys2Proof.Machine
end

section
/-! SUPPORT. FEED as a whole: the row that handles it under the invariants (30_encoding.md R103),
what its event says of the state it leaves, and the registers each phase leaves alone
(10_state.md R32). -/

namespace Sys2Proof.Machine

/-- Under the invariants one of the fourteen rows is selected (R103, R122). -/
theorem exists_sel {s : State} (hinv : DecoderInv s) (b : Byte) :
    SelPreMatch s b ∨ SelPreDone s b ∨ SelPreMiss s b ∨
    SelHdrLenOk s b ∨ SelHdrLenBad s b ∨ SelHdrBody s ∨ SelHdrDone s ∨
    SelPayByte s ∨ SelPayDone s ∨ SelPayOvf s ∨
    SelCrcFirst s ∨ SelCrcOvf s ∨ SelCrcOk s b ∨ SelCrcBad s b := by
  have hone := exactlyOneRowHandlesEachFeed s b hinv
  have hmem : true ∈ feedRows s b := List.count_pos_iff.mp (by omega)
  simpa only [feedRows, List.mem_cons, List.not_mem_nil, or_false, eq_comm (a := true),
    decide_eq_true_eq] using hmem

theorem transitionAllowed_headerEnd (p : Half) :
    transitionAllowed .hdr (if p = 0 then .crc else .pay) .pending = true := by
  split <;> rfl

/-- Under the invariants a FEED completes, whatever FWC is, along a row of the transition table
(R120, R137). -/
theorem feed_completes {s : State} (hinv : DecoderInv s) (b : Byte) :
    ∃ t ev, feed b s = .ok (t, ev) ∧
      (∀ v : Count, feed b { s with fwc := v } = .ok ({ t with fwc := v }, ev)) ∧
      transitionAllowed s.phase t.phase ev = true := by
  have ⟨hfill, hpre, hhdr, _, hcrc⟩ := hinv
  rcases exists_sel hinv b with hmatch | hdone | hmiss | hlenOk | hlenBad | hbody | hend |
    hbyte | hlast | hpayOvf | hfirst | hcrcOvf | hok | hbad
  · have ⟨hp, _, hb⟩ := hmatch
    subst hb
    have hroom := (hpre hp).room
    exact ⟨_, _, feed_of_selPreMatch hmatch hroom,
      fun v => feed_of_selPreMatch (s := { s with fwc := v }) hmatch hroom,
      by simp [hp, transitionAllowed]⟩
  · have ⟨hp, _, hb⟩ := hdone
    subst hb
    have hroom := (hpre hp).room
    exact ⟨_, _, feed_of_selPreDone hdone hroom,
      fun v => feed_of_selPreDone (s := { s with fwc := v }) hdone hroom,
      by simp [hp, transitionAllowed]⟩
  · exact ⟨_, _, feed_of_selPreMiss hmiss,
      fun v => feed_of_selPreMiss (s := { s with fwc := v }) hmiss,
      by simp [hmiss.1, transitionAllowed]⟩
  · have ⟨hp, _⟩ := hlenOk
    have hroom := (hhdr hp).room
    exact ⟨_, _, feed_of_selHdrLenOk hlenOk hroom,
      fun v => feed_of_selHdrLenOk (s := { s with fwc := v }) hlenOk hroom,
      by simp [hp, transitionAllowed]⟩
  · exact ⟨_, _, feed_of_selHdrLenBad hlenBad,
      fun v => feed_of_selHdrLenBad (s := { s with fwc := v }) hlenBad,
      by simp [hlenBad.1, transitionAllowed]⟩
  · have ⟨hp, _⟩ := hbody
    have hroom := (hhdr hp).room
    exact ⟨_, _, feed_of_selHdrBody hbody hroom b,
      fun v => feed_of_selHdrBody (s := { s with fwc := v }) hbody hroom b,
      by simp [hp, transitionAllowed]⟩
  · have ⟨hp, _⟩ := hend
    have hroom := (hhdr hp).room
    have hin := (hhdr hp).lt_len_of_done hend
    obtain ⟨p, hplen⟩ := exists_memHalf hfill hin
    exact ⟨_, _, feed_of_selHdrDone hend hroom hin hplen b,
      fun v => feed_of_selHdrDone (s := { s with fwc := v }) hend hroom hin hplen b,
      hp ▸ transitionAllowed_headerEnd p⟩
  · exact ⟨_, _, feed_of_selPayByte hbyte b,
      fun v => feed_of_selPayByte (s := { s with fwc := v }) hbyte b,
      by simp [hbyte.1, transitionAllowed]⟩
  · exact ⟨_, _, feed_of_selPayDone hlast b,
      fun v => feed_of_selPayDone (s := { s with fwc := v }) hlast b,
      by simp [hlast.1, transitionAllowed]⟩
  · exact ⟨_, _, feed_of_selPayOvf hpayOvf b,
      fun v => feed_of_selPayOvf (s := { s with fwc := v }) hpayOvf b,
      by simp [hpayOvf.1, transitionAllowed]⟩
  · exact ⟨_, _, feed_of_selCrcFirst hfirst b,
      fun v => feed_of_selCrcFirst (s := { s with fwc := v }) hfirst b,
      by simp [hfirst.1, transitionAllowed]⟩
  · exact ⟨_, _, feed_of_selCrcOvf hcrcOvf b,
      fun v => feed_of_selCrcOvf (s := { s with fwc := v }) hcrcOvf b,
      by simp [hcrcOvf.1, transitionAllowed]⟩
  · have ⟨hp, _, _, hmatch⟩ := hok
    obtain ⟨hi, body, hhi, -⟩ := reads_of_trailerMatches hmatch
    obtain ⟨payload, hpayload⟩ := (hcrc hp).exists_payload hfill
    exact ⟨_, _, feed_of_selCrcOk hok hhi hpayload,
      fun v => feed_of_selCrcOk (s := { s with fwc := v }) hok hhi hpayload,
      by simp [hp, transitionAllowed]⟩
  · exact ⟨_, _, feed_of_selCrcBad hbad,
      fun v => feed_of_selCrcBad (s := { s with fwc := v }) hbad,
      by simp [hbad.1, transitionAllowed]⟩

/-- Every event but Pending leaves the decoder reset (R140). -/
theorem FeedEffect.isReset {b : Byte} {s t : State} {ev : DecoderEvent} (h : FeedEffect b s t ev)
    (hev : ev ≠ .pending) : DecoderIsReset t := by
  cases h with
  | restart => exact absurd rfl hev
  | stored => exact absurd rfl hev
  | raised k => exact raiseError_isReset k s
  | delivered => exact fullReset_isReset s.countReceived

theorem FeedEffect.inbox {b : Byte} {s t : State} {ev : DecoderEvent} (h : FeedEffect b s t ev) :
    t.inbox = s.inbox := by
  cases h with
  | restart => rfl
  | stored => rfl
  | raised k => cases k <;> rfl
  | delivered => rfl

/-- A FEED empties the buffer or stores its byte at index LEN (R123 to R136). -/
theorem FeedEffect.buffer_cases {b : Byte} {s t : State} {ev : DecoderEvent}
    (h : FeedEffect b s t ev) :
    (t.len = 0 ∧ t.buf = []) ∨
    (ev = .pending ∧ s.len < Config.cap ∧ t.len = s.len + 1 ∧ t.buf = s.buf.write s.len b) := by
  cases h with
  | restart => exact .inl ⟨rfl, rfl⟩
  | stored ph mp hc pc tc hl pl hroom => exact .inr ⟨rfl, hroom, rfl, rfl⟩
  | raised k =>
    obtain ⟨-, -, hlen, hbuf, -⟩ := raiseError_isReset k s
    exact .inl ⟨hlen, hbuf⟩
  | delivered => exact .inl ⟨rfl, rfl⟩

/-! The registers a FEED that does not empty the buffer leaves alone, phase by phase. -/

/-- An append that leaves bytes in the buffer did not raise. -/
theorem afterAppend_of_buf_ne_nil {b : Byte} {s t : State} {ev : DecoderEvent} {k : State → Fed}
    (hbuf : t.buf ≠ []) (h : afterAppend b s k = .ok (t, ev)) : k (s.store b) = .ok (t, ev) := by
  rcases Nat.lt_or_ge s.len Config.cap with hroom | hfull
  · rwa [afterAppend_room hroom] at h
  · rw [afterAppend_full hfull] at h
    cases h
    exact absurd rfl hbuf

section
variable {b : Byte} {s t : State} {ev : DecoderEvent}

theorem feedPre_registers (hbuf : t.buf ≠ []) (h : feedPre b s = .ok (t, ev)) :
    t.hlen = s.hlen ∧ t.hcnt = s.hcnt ∧ t.plen = s.plen ∧ t.pcnt = s.pcnt ∧ t.tcnt = s.tcnt := by
  unfold feedPre at h
  split at h
  · have hk := afterAppend_of_buf_ne_nil hbuf h
    split at hk <;> cases hk <;> exact ⟨rfl, rfl, rfl, rfl, rfl⟩
  · cases h
    exact absurd rfl hbuf

theorem headerComplete_registers (h : headerComplete s = .ok (t, ev)) :
    t.mpos = s.mpos ∧ t.pcnt = s.pcnt ∧ t.tcnt = s.tcnt := by
  unfold headerComplete at h
  split at h <;> cases h
  exact ⟨rfl, rfl, rfl⟩

theorem feedHdr_registers (hbuf : t.buf ≠ []) (h : feedHdr b s = .ok (t, ev)) :
    t.mpos = s.mpos ∧ t.pcnt = s.pcnt ∧ t.tcnt = s.tcnt := by
  unfold feedHdr at h
  split at h
  · split at h
    · cases h
      exact absurd rfl hbuf
    · cases afterAppend_of_buf_ne_nil hbuf h
      exact ⟨rfl, rfl, rfl⟩
  · have hk := afterAppend_of_buf_ne_nil hbuf h
    split at hk
    · have hregs := headerComplete_registers hk
      exact hregs
    · cases hk
      exact ⟨rfl, rfl, rfl⟩

theorem feedPay_registers (hbuf : t.buf ≠ []) (h : feedPay b s = .ok (t, ev)) :
    t.mpos = s.mpos ∧ t.hlen = s.hlen ∧ t.hcnt = s.hcnt ∧ t.plen = s.plen ∧ t.tcnt = s.tcnt := by
  have hk := afterAppend_of_buf_ne_nil hbuf h
  split at hk <;> cases hk <;> exact ⟨rfl, rfl, rfl, rfl, rfl⟩

theorem feedCrc_registers (hbuf : t.buf ≠ []) (h : feedCrc b s = .ok (t, ev)) :
    t.phase = s.phase ∧ t.mpos = s.mpos ∧ t.hlen = s.hlen ∧ t.hcnt = s.hcnt ∧ t.plen = s.plen ∧
    t.pcnt = s.pcnt := by
  have hk := afterAppend_of_buf_ne_nil hbuf h
  split at hk
  · cases hk
    exact ⟨rfl, rfl, rfl, rfl, rfl, rfl⟩
  · obtain ⟨-, -, -, hempty, -⟩ := judgeTrailer_isReset hk
    exact absurd hempty hbuf

end

end Sys2Proof.Machine
end

section
/-! Proofs of the decoder family (40_frame_decoder.md): FEED as a whole. -/

namespace Sys2Proof.Machine

/-- Settles O36: under the invariants a row is selected, and each row completes whatever FWC is. -/
theorem feedAlwaysCompletes : Obligations.FeedAlwaysCompletes := by
  unfold Obligations.FeedAlwaysCompletes
  refine ⟨fun b => opWord_feed b ▸ decode_feedWord b, fun s b hinv => ?_⟩
  obtain ⟨t, ev, hfeed, hfwc, -⟩ := feed_completes hinv b
  obtain ⟨-, -, hkeeps, -⟩ := (feed_effect hfeed).counters
  exact ⟨t.returning (.event ev), ev, execFeed_of_feed hfeed, rfl, hkeeps,
    fun v => execFeed_of_feed (hfwc v)⟩

/-- Settles O37: the selected row moves along the table, and no event but Pending leaves anything
in the decoder. -/
theorem phasesMoveOnlyAlongTheTable : Obligations.PhasesMoveOnlyAlongTheTable := by
  unfold Obligations.PhasesMoveOnlyAlongTheTable
  intro s t b hinv hexec
  obtain ⟨u, ev, hfeed, -, hallowed⟩ := feed_completes hinv b
  cases (execFeed_of_feed hfeed).symm.trans hexec
  exact ⟨ev, rfl, hallowed, fun hev => (feed_effect hfeed).isReset hev⟩

/-- Settles O39: a FEED empties the buffer or stores its byte; where it stores, the definition of
the phase's listing says which registers it leaves alone. -/
theorem feedFrame : Obligations.FeedFrame := by
  unfold Obligations.FeedFrame
  intro i b s t hg hexec
  rw [exec_eq_feed_of_generic hg] at hexec
  obtain ⟨u, ev, hfeed, rfl⟩ := execFeed_next hexec
  have heffect := feed_effect hfeed
  obtain ⟨hrxc, hcec, hfwc, hsent⟩ := heffect.counters
  refine ⟨ev, rfl, hfwc, ⟨heffect.inbox, hsent⟩, fun hev => hrxc.trans (if_neg hev),
    fun hev => hcec.trans (if_neg fun h => hev (Option.some.inj h)), ?_⟩
  rcases heffect.buffer_cases with hempty | ⟨hev, hroom, hlen, hwrite⟩
  · exact .inl hempty
  · have hbuf : u.buf ≠ [] := hwrite ▸ Memory.write_ne_nil s.buf s.len b
    refine .inr ⟨hev, hroom, hlen, ?_, fun a ha => ?_, fun hp => ?_, fun hp => ?_, fun hp => ?_,
      fun hp => ?_⟩
    · rw [State.returning_buf, hwrite, Memory.read_write_same]
    · rw [State.returning_buf, hwrite, Memory.read_write_other _ _ _ _ ha]
    · exact feedPre_registers (t := u) hbuf (feed_of_pre hp b ▸ hfeed)
    · exact feedHdr_registers (t := u) hbuf (feed_of_hdr hp b ▸ hfeed)
    · exact feedPay_registers (t := u) hbuf (feed_of_pay hp b ▸ hfeed)
    · exact feedCrc_registers (t := u) hbuf (feed_of_crc hp b ▸ hfeed)

end Sys2Proof.Machine
end

section
/-! SUPPORT. A correct frame up to its delivery (30_encoding.md R98, 40_frame_decoder.md R141), and
a run of preamble bytes (R142). -/

namespace Sys2Proof.Machine

section
variable {h f1 x : Byte} {fs p : List Byte} {s : State}

/-- The payload of a frame stands behind its header (R95, R98). -/
theorem payload_of_mkBody (hfits : FrameFits h fs p) (ys : List Byte) :
    ((mkBody h f1 fs p ++ ys).drop (8 + h.toNat)).take p.length = p := by
  obtain ⟨-, hfill, -⟩ := hfits
  have hlen : (Config.preamble ++ mkHeader h f1 (BitVec.ofNat 16 p.length) fs).length =
      8 + h.toNat := by
    simp only [mkHeader, Config.preamble, List.length_append, List.length_cons, List.length_nil]
    omega
  rw [mkBody, List.append_assoc, ← hlen, List.drop_left, List.take_left]

/-- What is in BUF before the last trailer byte. -/
theorem beforeVerdict_buf (hfits : FrameFits h fs p) :
    (beforeVerdict h f1 x fs p s).buf = Memory.ofBytes (mkBody h f1 fs p ++ [x]) ∧
    (beforeVerdict h f1 x fs p s).len = (mkBody h f1 fs p ++ [x]).length := by
  have hlen : (mkBody h f1 fs p ++ [x]).length = h.toNat + p.length + 9 := by
    rw [List.length_append, List.length_singleton, length_mkBody hfits]
    omega
  exact ⟨congrArg Memory.ofBytes (List.take_of_length_le (Nat.le_of_eq hlen)), hlen.symm⟩

/-- The lengths the header declared (R92, R94). -/
theorem beforeVerdict_lengths :
    (beforeVerdict h f1 x fs p s).hlen = h ∧
    (beforeVerdict h f1 x fs p s).plen = BitVec.ofNat 16 p.length := by
  have hhlen : (if h.toNat + p.length + 9 ≤ 8 then 0 else h) = h := if_neg (by omega)
  have hplen : (if h.toNat + p.length + 9 < 8 + h.toNat then 0 else BitVec.ofNat 16 p.length) =
      BitVec.ofNat 16 p.length := if_neg (by omega)
  exact ⟨hhlen, hplen⟩

/-- The last byte of a frame with a correct trailer delivers it (R135, R138). -/
theorem feed_beforeVerdict_match {y : Byte} (hfits : FrameFits h fs p)
    (hcrc : be16 x y = crc16 (mkBody h f1 fs p)) :
    feed y (beforeVerdict h f1 x fs p s) =
      .ok ({ s.fullReset with rxc := satInc s.rxc },
        .frameReady ⟨h, BitVec.ofNat 16 p.length, p, crc16 (mkBody h f1 fs p)⟩) := by
  obtain ⟨hp, hroom, htcnt⟩ := beforeVerdict_registers (f1 := f1) (x := x) (s := s) hfits
  obtain ⟨hbuf, hlen⟩ := beforeVerdict_buf (f1 := f1) (x := x) (s := s) hfits
  obtain ⟨hhlen, hplen⟩ :=
    beforeVerdict_lengths (h := h) (f1 := f1) (x := x) (fs := fs) (p := p) (s := s)
  have hverdict := trailerMatches_beforeVerdict (f1 := f1) (x := x) (s := s) hfits y
  rw [decide_eq_true hcrc] at hverdict
  have hbody := length_mkBody hfits f1
  have hlast : (beforeVerdict h f1 x fs p s).len - 1 = (mkBody h f1 fs p).length := by
    rw [hlen, List.length_append, List.length_singleton, Nat.add_sub_cancel]
  have hhi : memByte (beforeVerdict h f1 x fs p s) ((beforeVerdict h f1 x fs p s).len - 1) =
      some x := by
    rw [memByte_ofBytes hbuf hlen, hlast, List.getElem?_concat_length]
  have hpayload : memSlice (beforeVerdict h f1 x fs p s)
      (8 + (beforeVerdict h f1 x fs p s).hlen.toNat)
      (beforeVerdict h f1 x fs p s).plen.toNat = some p := by
    rw [hhlen, hplen, toNat_plen_of_frameFits hfits, memSlice_ofBytes hbuf hlen (by omega),
      payload_of_mkBody hfits]
  rw [feed_of_selCrcOk ⟨hp, hroom, htcnt, hverdict⟩ hhi hpayload, hhlen, hplen, hcrc]
  rfl

end

/-- What `n` bytes 0xAA leave of the registers (R142): every ninth is rejected as a header length,
so the count is modulo 9. -/
def PreambleRun (n : Nat) (s : State) : Prop :=
  if n % 9 = 8 then s.phase = .hdr ∧ s.hcnt = 0 ∧ s.len = 8
  else s.phase = .pre ∧ s.mpos = n % 9 ∧ s.len = n % 9

theorem PreambleRun.of_pre {n m : Nat} {s : State} (hm : n % 9 = m) (hlt : m < 8)
    (hp : s.phase = .pre) (hmpos : s.mpos = m) (hlen : s.len = m) : PreambleRun n s := by
  rw [PreambleRun, if_neg (by omega), hm]
  exact ⟨hp, hmpos, hlen⟩

theorem PreambleRun.of_hdr {n : Nat} {s : State} (hm : n % 9 = 8) (hp : s.phase = .hdr)
    (hcnt : s.hcnt = 0) (hlen : s.len = 8) : PreambleRun n s := by
  rw [PreambleRun, if_pos hm]
  exact ⟨hp, hcnt, hlen⟩

/-- The event of byte `k` of a run of 0xAA, counted from zero (R142). -/
def preambleRunEvent (k : Nat) : DecoderEvent :=
  if k % 9 = 8 then .error .invalidHeaderLength else .pending

/-- One byte 0xAA more: it matches, completes the preamble, or is rejected as a header length. -/
theorem PreambleRun.feed_succ {n : Nat} {s : State} (hrun : PreambleRun n s)
    (hinv : DecoderInv s) :
    ∃ t, feed 0xAA s = .ok (t, preambleRunEvent n) ∧ PreambleRun (n + 1) t ∧
      SameCounters s t := by
  have ⟨_, hpre, _⟩ := hinv
  by_cases h8 : n % 9 = 8
  · rw [PreambleRun, if_pos h8] at hrun
    obtain ⟨hp, hcnt, -⟩ := hrun
    rw [preambleRunEvent, if_pos h8]
    exact ⟨_, feed_of_selHdrLenBad ⟨hp, hcnt, by decide⟩,
      .of_pre (m := 0) (by omega) (by decide) rfl rfl rfl, rfl, rfl, rfl⟩
  · rw [PreambleRun, if_neg h8] at hrun
    obtain ⟨hp, hmpos, hlen⟩ := hrun
    obtain ⟨-, hle, -, -, hcnt, -⟩ := hpre hp
    rw [preambleRunEvent, if_neg h8]
    rcases Nat.lt_or_eq_of_le hle with hlt | h7
    · exact ⟨_, feed_of_selPreMatch ⟨hp, Nat.le_of_lt_succ hlt, rfl⟩ (hpre hp).room,
        .of_pre (m := n % 9 + 1) (by omega) (by omega) hp (congrArg (· + 1) hmpos)
          (congrArg (· + 1) hlen), rfl, rfl, rfl⟩
    · have hlen7 : s.len = 7 := by omega
      exact ⟨_, feed_of_selPreDone ⟨hp, h7, rfl⟩ (hpre hp).room,
        .of_hdr (by omega) rfl hcnt (congrArg (· + 1) hlen7), rfl, rfl, rfl⟩

/-- A run of `n` bytes 0xAA from the reset decoder. -/
theorem feedAll_preambleRun {s : State} (hs : DecoderIsReset s) (n : Nat) :
    ∃ t, feedAll (List.replicate n 0xAA) s = some ((List.range n).map preambleRunEvent, t) ∧
      PreambleRun n t ∧ DecoderInv t ∧ SameCounters s t := by
  induction n with
  | zero =>
    have ⟨hp, hmpos, hlen, _⟩ := hs
    exact ⟨s, rfl, .of_pre rfl (by decide) hp hmpos hlen, .of_isReset hs, rfl, rfl, rfl⟩
  | succ n ih =>
    obtain ⟨t, hall, hrun, hinv, hrxc, hfwc, hcec⟩ := ih
    obtain ⟨u, hfeed, hrun', hrxc', hfwc', hcec'⟩ := hrun.feed_succ hinv
    have hinv' : DecoderInv u := feed_keeps_inv hinv hfeed
    refine ⟨u.returning (.event (preambleRunEvent n)), ?_, hrun', hinv', hrxc'.trans hrxc,
      hfwc'.trans hfwc, hcec'.trans hcec⟩
    rw [List.replicate_succ', feedAll_append _ hall, feedAll_one hfeed, List.range_succ,
      List.map_append]
    rfl

end Sys2Proof.Machine
end

section
/-! Proofs of the decoder family (40_frame_decoder.md): streams of bytes. -/

namespace Sys2Proof.Machine

/-- Settles O55: all bytes but the last are collected, and the last meets the row FEED.CRC.OK. -/
theorem correctFramesDecode : Obligations.CorrectFramesDecode := by
  unfold Obligations.CorrectFramesDecode
  intro h f1 fs p s hfits hs
  have hlast := feed_beforeVerdict_match (f1 := f1) (s := s.returning (.event .pending)) hfits
    (be16_hiByte_loByte (crc16 (mkBody h f1 fs p)))
  have hreset : (s.returning (.event .pending)).fullReset = s.returning (.event .pending) :=
    fullReset_of_isReset hs
  rw [hreset] at hlast
  rw [mkFrame, mkTrailer, List.append_cons, feedAll_append _ (feedAll_mkBody_first hfits hs),
    feedAll_one hlast]
  rfl

/-- Settles O58: by induction on the length of the run, under the invariants. -/
theorem runOfPreambleBytesLocksOnEight : Obligations.RunOfPreambleBytesLocksOnEight := by
  unfold Obligations.RunOfPreambleBytesLocksOnEight
  intro n s hs
  obtain ⟨t, hall, hrun, -, hcounters⟩ := feedAll_preambleRun hs n
  exact ⟨_, t, hall, rfl, hrun, hcounters⟩

/-- Settles O59: in S_PRE the miss leaves the reset decoder, from which a correct frame decodes. -/
theorem frameDecodesAfterAFalseStart : Obligations.FrameDecodesAfterAFalseStart := by
  unfold Obligations.FrameDecodesAfterAFalseStart
  intro b h f1 fs p s ⟨_, hpre, _⟩ hp hb hfits
  obtain ⟨-, -, -, hhlen, hhcnt, hplen, hpcnt, htcnt⟩ := hpre hp
  have hreset : DecoderIsReset s.restartMatch :=
    ⟨hp, rfl, rfl, rfl, hhlen, hhcnt, hplen, hpcnt, htcnt⟩
  have hfull : s.restartMatch = s.fullReset := (fullReset_of_isReset hreset).symm
  have hframe := correctFramesDecode h f1 fs p (s.restartMatch.returning (.event .pending)) hfits
    hreset
  rw [feedAll_cons _ (feed_of_selPreMiss ⟨hp, hb⟩), hframe, hfull]
  rfl

end Sys2Proof.Machine
end

section
/-! SUPPORT. The CRC Engine (41_crc_engine.md): a shift step is linear, and eight of them move a
value whose low byte is zero right by eight. The table form rests on both, the linearity over
sequences on the first, the residue on the second. -/

namespace Sys2Proof.Machine

/-! ### The shift step -/

/-- What a set tested bit adds to the halved register (R163). -/
def crcFeedback (c : Bool) : Half := if c then Config.crcPolyR else 0

theorem crcFeedback_xor (c d : Bool) : crcFeedback (c ^^ d) = crcFeedback c ^^^ crcFeedback d := by
  cases c <;> cases d <;> decide

theorem xor_crcFeedback (c : Bool) (x : Half) :
    (if c then x ^^^ Config.crcPolyR else x) = x ^^^ crcFeedback c := by
  cases c
  · exact (BitVec.xor_zero).symm
  · rfl

theorem crcShift_eq_xor (reg : Half) :
    crcShift reg = (reg >>> 1) ^^^ crcFeedback (reg.getLsbD 0) :=
  xor_crcFeedback ..

theorem crcSerialStep_eq_xor (b : Byte) (reg : Half) (k : Nat) :
    crcSerialStep b reg k = (reg >>> 1) ^^^ crcFeedback (reg.getLsbD 0 ^^ b.getLsbD k) :=
  xor_crcFeedback ..

theorem crcShift_of_even {reg : Half} (h : reg.getLsbD 0 = false) : crcShift reg = reg >>> 1 :=
  if_neg (Bool.eq_false_iff.mp h)

/-- R163 on numbers: the tested bit is the parity, and the logical shift is the half. -/
theorem crcShift_toNat (reg : Half) :
    (crcShift reg).toNat =
      if reg.toNat % 2 = 1 then (reg.toNat / 2) ^^^ 0xA001 else reg.toNat / 2 := by
  have hbit : reg.getLsbD 0 = decide (reg.toNat % 2 = 1) := Nat.testBit_zero reg.toNat
  have hhalf : (reg >>> 1).toNat = reg.toNat / 2 := Nat.shiftRight_eq_div_pow reg.toNat 1
  rw [crcShift, hbit]
  by_cases hodd : reg.toNat % 2 = 1
  · rw [if_pos hodd, if_pos (decide_eq_true hodd), BitVec.toNat_xor, hhalf]
    rfl
  · rw [if_neg hodd, if_neg (by simp [hodd]), hhalf]

/-- Equal tested bits cancel the constant, different ones leave it once. -/
theorem crcShift_xor (x y : Half) : crcShift (x ^^^ y) = crcShift x ^^^ crcShift y := by
  simp only [crcShift_eq_xor, BitVec.getLsbD_xor, BitVec.ushiftRight_xor_distrib,
    crcFeedback_xor]
  ac_rfl

/-- `n` shift steps, one after the other (R162). -/
def crcShifts : Nat → Half → Half
  | 0, reg => reg
  | n + 1, reg => crcShift (crcShifts n reg)

theorem crcShifts_xor (n : Nat) (x y : Half) :
    crcShifts n (x ^^^ y) = crcShifts n x ^^^ crcShifts n y := by
  induction n with
  | zero => rfl
  | succ n ih => rw [crcShifts, ih, crcShift_xor, crcShifts, crcShifts]

/-- As long as the tested bits are zero, the steps are a plain shift. -/
theorem crcShifts_of_low_zero {x : Half} {n : Nat} (h : ∀ k < n, x.getLsbD k = false) :
    crcShifts n x = x >>> n := by
  induction n with
  | zero => rfl
  | succ n ih =>
    have hbit : (x >>> n).getLsbD 0 = false := by simpa using h n (Nat.lt_succ_self n)
    rw [crcShifts, ih fun k hk => h k (Nat.lt_succ_of_lt hk),
      crcShift_of_even hbit, ← BitVec.shiftRight_add]

/-! ### The byte step -/

theorem crcByte_eq_crcShifts (reg : Half) (b : Byte) :
    crcByte reg b = crcShifts 8 (reg ^^^ b.setWidth 16) := rfl

theorem crcByte_xor (x y : Half) (a b : Byte) :
    crcByte (x ^^^ y) (a ^^^ b) = crcByte x a ^^^ crcByte y b := by
  have hswap : x ^^^ y ^^^ (a.setWidth 16 ^^^ b.setWidth 16) =
      (x ^^^ a.setWidth 16) ^^^ (y ^^^ b.setWidth 16) := by ac_rfl
  rw [crcByte_eq_crcShifts, BitVec.setWidth_xor, hswap, crcShifts_xor]
  rfl

theorem setWidth_shiftRight_eight (b : Byte) : b.setWidth 16 >>> 8 = 0#16 := by
  rw [← BitVec.setWidth_ushiftRight (by decide), BitVec.ushiftRight_eq_zero (by decide),
    BitVec.setWidth_zero]

/-- A byte equal to the low half of the register cancels it, and what is left moves down. -/
theorem crcByte_loByte (reg : Half) : crcByte reg (loByte reg) = reg >>> 8 := by
  have hlow : ∀ k < 8, (reg ^^^ (loByte reg).setWidth 16).getLsbD k = false := by
    intro k hk
    simp [loByte, hk, Nat.lt_trans hk]
  rw [crcByte_eq_crcShifts, crcShifts_of_low_zero hlow, BitVec.ushiftRight_xor_distrib,
    setWidth_shiftRight_eight, BitVec.xor_zero]

/-- The byte step of the high byte, alone in the register, leaves zero (R172). -/
theorem crcByte_shiftRight_hiByte (reg : Half) : crcByte (reg >>> 8) (hiByte reg) = 0 := by
  have hhi : (hiByte reg).setWidth 16 = reg >>> 8 := by
    apply BitVec.eq_of_toNat_eq
    simp only [hiByte, BitVec.toNat_setWidth, BitVec.extractLsb'_toNat, BitVec.toNat_ushiftRight]
    omega
  rw [crcByte_eq_crcShifts, hhi, BitVec.xor_self]
  rfl

theorem loByte_xor_setWidth (reg : Half) (b : Byte) :
    loByte (reg ^^^ b.setWidth 16) = loByte reg ^^^ b := by
  rw [loByte, BitVec.extractLsb'_xor, BitVec.extractLsb'_setWidth_of_le (by decide),
    BitVec.extractLsb'_eq_self]
  rfl

/-! ### The bit-serial form -/

/-- One bit-serial step is one shift step of the register with the rest of the byte put in. -/
theorem crcShift_xor_rest (reg : Half) (b : Byte) (k : Nat) :
    crcShift (reg ^^^ (b.setWidth 16 >>> k)) =
      crcSerialStep b reg k ^^^ (b.setWidth 16 >>> (k + 1)) := by
  have hbit : (b.setWidth 16 >>> k).getLsbD 0 = b.getLsbD k := by
    simpa using fun h => Nat.lt_trans (BitVec.lt_of_getLsbD h) (by decide : 8 < 16)
  rw [crcShift_eq_xor, crcSerialStep_eq_xor, BitVec.getLsbD_xor, hbit,
    BitVec.ushiftRight_xor_distrib, ← BitVec.shiftRight_add]
  ac_rfl

/-- After `n` bit-serial steps the register differs from `n` shift steps of the byte step by the
bits of the byte not yet taken. -/
theorem crcShifts_eq_serial (reg : Half) (b : Byte) (n : Nat) :
    crcShifts n (reg ^^^ b.setWidth 16) =
      (List.range n).foldl (crcSerialStep b) reg ^^^ (b.setWidth 16 >>> n) := by
  induction n with
  | zero => rfl
  | succ n ih =>
    rw [crcShifts, ih, crcShift_xor_rest, List.range_succ, List.foldl_append]
    rfl

/-! ### Sequences -/

theorem crcFold_append (reg : Half) (s t : List Byte) :
    crcFold reg (s ++ t) = crcFold (crcFold reg s) t :=
  List.foldl_append

theorem crcFold_xor (x y : Half) {a b : List Byte} (h : a.length = b.length) :
    crcFold (x ^^^ y) (List.zipWith (fun p q => p ^^^ q) a b) = crcFold x a ^^^ crcFold y b := by
  induction a generalizing b x y with
  | nil =>
    rw [List.eq_nil_of_length_eq_zero h.symm]
    rfl
  | cons p a ih =>
    cases b with
    | nil => cases h
    | cons q b =>
      have hstep := ih (crcByte x p) (crcByte y q) (Nat.succ.inj h)
      rwa [← crcByte_xor] at hstep

/-- R174: the value every frame's checksum continues from. -/
theorem crc16_preamble : crc16 Config.preamble = 0x333F := by decide +kernel

theorem zipWith_xor_zeros (a : List Byte) :
    List.zipWith (fun p q => p ^^^ q) a (List.replicate a.length 0) = a := by
  induction a with
  | nil => rfl
  | cons p a ih =>
    rw [List.length_cons, List.replicate_succ, List.zipWith_cons_cons, ih]
    exact congrArg (· :: a) BitVec.xor_zero

/-- The run splits into one over the sequence and one over as many zeros (95_test_vectors.md K5). -/
theorem crcFold_xor_zeros (x y : Half) {a : List Byte} {n : Nat} (h : a.length = n) :
    crcFold (x ^^^ y) a = crcFold x a ^^^ crcFold y (List.replicate n 0) := by
  rw [← crcFold_xor x y (by rw [List.length_replicate, h]), ← h, zipWith_xor_zeros]

end Sys2Proof.Machine
end

section
/-! Proofs of the CRC family (41_crc_engine.md). -/

namespace Sys2Proof.Machine

/-- Settles O11: the operation returns the checksum and touches no other field. -/
theorem crc16ReturnsTheChecksum : Obligations.Crc16ReturnsTheChecksum := by
  unfold Obligations.Crc16ReturnsTheChecksum
  exact ⟨fun _ _ => rfl, rfl, by decide +kernel⟩

/-- Settles O12: the fold's last step is a byte step, and the shift step is read on numbers. -/
theorem crcAlgorithmBitForBit : Obligations.CrcAlgorithmBitForBit := by
  unfold Obligations.CrcAlgorithmBitForBit
  exact ⟨rfl, fun s b => crcFold_append _ s [b], fun _ _ => rfl, crcShift_toNat, rfl⟩

/-- Settles O13: after eight bit-serial steps no bit of the byte is left. -/
theorem crcBitSerialFormAgrees : Obligations.CrcBitSerialFormAgrees := by
  unfold Obligations.CrcBitSerialFormAgrees
  intro reg b
  rw [crcByte_eq_crcShifts, crcShifts_eq_serial, setWidth_shiftRight_eight,
    BitVec.xor_zero]
  rfl

/-- Settles O14: by linearity, the register's own low byte and the table's index are stepped
apart. -/
theorem crcTableFormAgrees : Obligations.CrcTableFormAgrees := by
  unfold Obligations.CrcTableFormAgrees
  refine ⟨fun reg b => ?_, by decide, by decide, by decide, by decide⟩
  calc crcByteByTable reg b
      = crcByte reg (loByte reg) ^^^ crcByte 0 (loByte reg ^^^ b) := by
        rw [crcByteByTable, crcTable, loByte_xor_setWidth, crcByte_loByte]
    _ = crcByte (reg ^^^ 0#16) (loByte reg ^^^ (loByte reg ^^^ b)) := (crcByte_xor ..).symm
    _ = crcByte reg b := by
        rw [BitVec.xor_zero, ← BitVec.xor_assoc, BitVec.xor_self, BitVec.zero_xor]

/-- Settles O15: three registers that start at 0xFFFF start together at 0xFFFF, and the zeros add
nothing to the bytes. -/
theorem crcIsIncrementalAndLinear : Obligations.CrcIsIncrementalAndLinear := by
  unfold Obligations.CrcIsIncrementalAndLinear
  refine ⟨crcFold_append Config.crcInit, fun t => ?_, fun a b hlen => ?_⟩
  · rw [crc16, crcFold_append, ← crc16, crc16_preamble]
  · have hlen' : (List.zipWith (fun p q => p ^^^ q) a b).length = a.length := by simp [hlen]
    rw [crc16, crc16, crc16, ← crcFold_xor _ _ hlen, ← crcFold_xor_zeros _ _ hlen',
      BitVec.xor_self, BitVec.zero_xor]
    rfl

/-- Settles O16: the low byte leaves the high byte in the register and the high byte leaves zero;
in wire order the empty sequence and one zero byte already differ. -/
theorem crcResidueOnlyLowByteFirst : Obligations.CrcResidueOnlyLowByteFirst := by
  unfold Obligations.CrcResidueOnlyLowByteFirst
  refine ⟨fun x => ?_, [], [0], by decide +kernel⟩
  calc crc16 (x ++ [loByte (crc16 x), hiByte (crc16 x)])
      = crcByte (crcByte (crc16 x) (loByte (crc16 x))) (hiByte (crc16 x)) := crcFold_append ..
    _ = 0 := by rw [crcByte_loByte, crcByte_shiftRight_hiByte]

end Sys2Proof.Machine
end

section
/-! SUPPORT. The pluggable stage (42_payload_transform.md R177, R178): an operation that answers a
next state under one transform answers, under any other, one that the decoder cannot tell apart. -/

namespace Sys2Proof.Machine

/-- TRANSFORM over any record answers the same state with the record's transform (R175, R177). -/
theorem execWith_transform (p : Params) (x : List Byte) (s : State) :
    execWith p (.transform x) s = .next (s.returning (.bytes (p.transform x))) := rfl

/-- No FEED reads the record (R177). -/
theorem execWith_feed (p : Params) (b : Byte) (s : State) :
    execWith p (.feed b) s = exec (.feed b) s := rfl

/-- RX_BYTE delivers what its FEED comes to (R198). -/
theorem receiveByte_of_feed {p : Params} {b : Byte} {g : Sig} {s : State}
    {r : State × DecoderEvent} (h : feed b s = .ok r) :
    receiveByte p b g s = .next (deliver p g r) := by
  simp [receiveByte, h]

/-- MAYBE_FORWARD does not read the last output: it does the same to a state that returns another
one, and leaves that output where it was. -/
theorem maybeForward_returning (p : Params) (m : Message) (s : State) (o : Output) :
    maybeForward p m (s.returning o) =
      ((maybeForward p m s).1.returning o, (maybeForward p m s).2) := by
  by_cases h : ForwardOk p s m
  · have hs : maybeForward p m s = forwardCase p m s := if_pos h
    have ho : maybeForward p m (s.returning o) = forwardCase p m (s.returning o) := if_pos h
    rw [hs, ho]
    rfl
  · have hs : maybeForward p m s = noForwardCase s := if_neg h
    have ho : maybeForward p m (s.returning o) = noForwardCase (s.returning o) := if_neg h
    rw [hs, ho]
    rfl

/-- A delivered frame meets MAYBE_FORWARD, with the transform of its payload as content, in the
state its FEED leaves; RX_BYTE adds only its own output (R178, R198, R199). -/
theorem deliver_of_frameReady (p : Params) (g : Sig) (t : State) (f : Frame) (o : Output) :
    deliver p g (t, .frameReady f) =
      (forwardOutcome (maybeForward p ⟨p.transform f.payload, g⟩ (t.returning o))).returning
        (.received (.frameReady f) (some ⟨p.transform f.payload, g⟩)
          (maybeForward p ⟨p.transform f.payload, g⟩ (t.returning o)).2) := by
  rw [maybeForward_returning]
  rfl

/-- What a substituted transform may not change (R177): the decoder, the counters of its events,
what is presented next, and the event. -/
abbrev SameDecoding (s t : State) : Prop :=
  SameDecoder s t ∧ t.rxc = s.rxc ∧ t.cec = s.cec ∧ t.inbox = s.inbox ∧
  decoderEventOf t.out = decoderEventOf s.out

theorem SameDecoding.refl (s : State) : SameDecoding s s := by simp [SameDecoding, SameDecoder]

theorem SameDecoding.of_common {s t u : State} (ht : SameDecoding s t) (hu : SameDecoding s u) :
    SameDecoding t u := by
  simp only [SameDecoding, SameDecoder, ht, hu, and_self]

/-- To the decoder an RX_BYTE is its FEED, under any record (R198). -/
theorem feed_sameDecoding_deliver (p : Params) (g : Sig) (t : State) (ev : DecoderEvent) :
    SameDecoding (t.returning (.event ev)) (deliver p g (t, ev)) := by
  obtain ⟨hdecoder, hrxc, hcec, hinbox⟩ := deliver_keeps p g (t, ev)
  obtain ⟨hevent, -⟩ := deliver_counters p g t ev
  exact ⟨hdecoder, hrxc, hcec, hinbox, hevent⟩

/-- Only TRANSFORM and RX_BYTE read the transform (R177). -/
theorem execWith_substituted (p : Params) (f : List Byte → List Byte) {i : Instr}
    (htransform : ∀ x, i ≠ .transform x) (hrx : ∀ b g, i ≠ .rxByte b g) (s : State) :
    execWith { p with transform := f } i s = execWith p i s := by
  cases i with
  | transform x => exact absurd rfl (htransform x)
  | rxByte b g => exact absurd rfl (hrx b g)
  | _ => rfl

/-- Under a substituted transform every operation still answers, and the decoder sees no
difference. -/
theorem execWith_substituted_next {p : Params} {i : Instr} {s t : State}
    (f : List Byte → List Byte) (h : execWith p i s = .next t) :
    ∃ t', execWith { p with transform := f } i s = .next t' ∧ SameDecoding t t' := by
  cases i with
  | transform x =>
    cases h
    exact ⟨_, execWith_transform _ x s, SameDecoding.refl (s.returning (.bytes (p.transform x)))⟩
  | rxByte b g =>
    obtain ⟨⟨u, ev⟩, hfeed, rfl⟩ := receiveByte_next h
    exact ⟨_, receiveByte_of_feed hfeed,
      (feed_sameDecoding_deliver p g u ev).of_common (feed_sameDecoding_deliver _ g u ev)⟩
  | _ => exact ⟨t, (execWith_substituted p f (by nofun) (by nofun) s).trans h, .refl t⟩

theorem takeNext_idle {s : State} (h : s.inbox = [])
    (run : Instr → State → Host.Outcome State Fault Refusal) : takeNext run s = .next s := by
  simp [takeNext, h]

theorem stepWith_substituted_next {p : Params} {s t : State} (f : List Byte → List Byte)
    (h : stepWith p s = .next t) :
    ∃ t', stepWith { p with transform := f } s = .next t' ∧ SameDecoding t t' := by
  rcases takeNext_cases h with ⟨hidle, rfl⟩ | ⟨r, rest, i, hinbox, hdecode, hexec⟩
  · exact ⟨t, takeNext_idle hidle _, .refl t⟩
  · obtain ⟨t', hexec', hsame⟩ := execWith_substituted_next f hexec
    exact ⟨t', (takeNext_run hinbox hdecode).trans hexec', hsame⟩

/-- The block's step is the step over its own record (log 10). -/
theorem step_eq_stepWith (s : State) : step s = stepWith Config.params s := by
  have hexec : execWith Config.params = exec := funext fun i => funext (execWith_params i)
  rw [step, stepWith, hexec]

end Sys2Proof.Machine
end

section
/-! Proofs of the transform family (42_payload_transform.md). -/

namespace Sys2Proof.Machine

/-- Settles O60: only TRANSFORM and RX_BYTE read the transform, and what RX_BYTE does to the decoder
is done by its FEED; a delivered payload's transform then meets MAYBE_FORWARD. -/
theorem anyTransformCanBePluggedIn : Obligations.AnyTransformCanBePluggedIn := by
  unfold Obligations.AnyTransformCanBePluggedIn
  refine ⟨execWith_transform, fun p b g s hinv => ?_,
    fun p f i s htransform hrx => execWith_substituted p f htransform hrx s,
    fun p f s t => stepWith_substituted_next f, step_eq_stepWith⟩
  obtain ⟨t, ev, hfeed, -⟩ := feed_completes hinv b
  have hrx : execWith p (.rxByte b g) s = .next (deliver p g (t, ev)) := receiveByte_of_feed hfeed
  refine ⟨t.returning (.event ev), ev, (execWith_feed p b s).trans (execFeed_of_feed hfeed), rfl,
    ?_⟩
  cases ev with
  | frameReady f =>
    rw [deliver_of_frameReady p g t f (.event (.frameReady f))] at hrx
    exact .inl ⟨f, _, _, rfl, rfl, rfl, hrx⟩
  | pending => exact .inr ⟨rfl, hrx⟩
  | error k => exact .inr ⟨rfl, hrx⟩

/-- Settles O50: the block's own record carries the identity (R176). -/
theorem transformReturnsTheContent : Obligations.TransformReturnsTheContent := by
  unfold Obligations.TransformReturnsTheContent
  intro x s
  refine ⟨?_, rfl⟩
  rw [← execWith_params]
  exact execWith_transform Config.params x s

end Sys2Proof.Machine
end

section
/-! SUPPORT. The Forward Controller (43_forward_controller.md): its rows, what an operation relays,
that no operation presents another, and an invariant along a run. -/

namespace Sys2Proof.Machine

/-- Each row of MAYBE_FORWARD is MAYBE_FORWARD, in every state (R102, R180). -/
theorem exec_eq_maybeForward_of_generic {i : Instr} {m : Message} (hg : i.generic = .maybeForward m)
    (s : State) : exec i s = exec (.maybeForward m) s := by
  cases i with
  | maybeForward n => cases hg; rfl
  | maybeForwardFwd n =>
    cases hg
    exact congrArg Host.Outcome.next (rowOrForward_fwd Config.params m s)
  | maybeForwardNone n =>
    cases hg
    exact congrArg Host.Outcome.next (rowOrForward_none Config.params m s)
  | _ => cases hg

theorem exec_maybeForward (m : Message) (s : State) :
    exec (.maybeForward m) s = .next (forwardOutcome (maybeForward Config.params m s)) := rfl

/-- Where the decision is not to forward, nothing happens (R183). -/
theorem maybeForward_of_not {p : Params} {m : Message} {s : State} (h : ¬ ForwardOk p s m) :
    maybeForward p m s = (s, none) := if_neg h

/-- At or above the ceiling the decision is not to forward (R181, R187). -/
theorem not_forwardOk_of_maxHops_le {p : Params} {s : State} (h : p.maxHops ≤ s.fwc) (m : Message) :
    ¬ ForwardOk p s m :=
  fun ⟨_, hlt⟩ => BitVec.not_lt.mpr h hlt

/-- MAYBE_FORWARD reads the content of its Message alone (R188). -/
theorem maybeForward_metrics (p : Params) (c : List Byte) (g g' : Sig) (s : State) :
    maybeForward p ⟨c, g'⟩ s = maybeForward p ⟨c, g⟩ s := rfl

/-- RX_BYTE copies the metrics into the Message it returns and does nothing else with them
(R188, R199). -/
theorem deliver_metrics (p : Params) (g g' : Sig) (r : State × DecoderEvent) :
    deliver p g' r = { deliver p g r with out := (deliver p g' r).out } ∧
    decoderEventOf (deliver p g' r).out = decoderEventOf (deliver p g r).out ∧
    forwardedOf (deliver p g' r).out = forwardedOf (deliver p g r).out ∧
    deliveredOf (deliver p g' r).out = deliveredOf (deliver p g r).out := by
  obtain ⟨t, ev⟩ := r
  cases ev with
  | pending => exact ⟨rfl, rfl, rfl, rfl⟩
  | error k => exact ⟨rfl, rfl, rfl, rfl⟩
  | frameReady f =>
    simp only [deliver, maybeForward_metrics p (p.transform f.payload) g g' t]
    exact ⟨rfl, rfl, rfl, rfl⟩

/-- Without RESET an operation relays nothing, or it relays one message, from below the ceiling,
and counts it (R182, R183). -/
theorem exec_relay_cases {i : Instr} {s t : State} (hi : i ≠ .reset) (h : exec i s = .next t) :
    (forwardedOf t.out = none ∧ t.fwc = s.fwc ∧ t.sent = s.sent) ∨
    (∃ o, forwardedOf t.out = some o ∧ s.fwc < Config.params.maxHops ∧ t.fwc = s.fwc + 1 ∧
      t.sent = s.sent ++ [o]) := by
  obtain ⟨-, -, hfwc, hsent⟩ := countersFollowTheEvents i s t hi h
  cases hforwarded : forwardedOf t.out with
  | none =>
    rw [hforwarded] at hfwc hsent
    exact .inl ⟨rfl, hfwc, hsent.trans (List.append_nil s.sent)⟩
  | some o =>
    rw [hforwarded] at hfwc hsent
    have hcount : t.fwc = s.fwc + 1 := hfwc
    rcases exec_fwc_cases hi h with hsame | ⟨hlt, -⟩
    · exact absurd (hcount.symm.trans hsame) (by bv_omega)
    · exact .inr ⟨o, rfl, hlt, hcount, hsent⟩

theorem maybeForward_inbox (p : Params) (m : Message) (s : State) :
    (maybeForward p m s).1.inbox = s.inbox := by
  rcases maybeForward_cases p m s with ⟨-, h⟩ | ⟨-, h⟩ <;> rw [h]

/-- No operation reads or changes what the host presents next (log 1). -/
theorem exec_inbox {i : Instr} {s t : State} (h : exec i s = .next t) : t.inbox = s.inbox := by
  cases exec_effect h with
  | reset => rfl
  | decReset => rfl
  | fed b t ev hg hfeed => exact (feed_effect hfeed).inbox
  | answered => rfl
  | forwarded m => exact maybeForward_inbox Config.params m s
  | received b g t ev hr hfeed =>
    obtain ⟨-, -, -, hinbox⟩ := deliver_keeps Config.params g (t, ev)
    exact hinbox.trans (feed_effect hfeed).inbox

/-- What every step keeps holds at the end of every run. -/
theorem run_keeps {P : State → Prop} (hstep : ∀ s t, P s → step s = .next t → P t) {n : Nat}
    {s t : State} (hs : P s) (h : Host.Core.run Sys2Proof.core n s = .next t) : P t := by
  induction n generalizing s with
  | zero => cases h; exact hs
  | succ n ih =>
    simp only [Host.Core.run] at h
    split at h
    · exact ih (hstep s _ hs ‹_›) h
    · cases h
    · cases h

/-- A state `t` of a run from `s` that performs no RESET: every message sent since `s` is one count
of FWC, FWC is at or below the ceiling, and no RESET is to come (R187, R262). -/
structure RelayedSince (s t : State) : Prop where
  counted : t.sent.length + s.fwc.toNat = s.sent.length + t.fwc.toNat
  hop : HopInv t
  noReset : ∀ r ∈ t.inbox, decode r ≠ .ok .reset

/-- An operation other than RESET counts in FWC what it sends. -/
theorem exec_keeps_counted {i : Instr} {s t : State} (hi : i ≠ .reset) (h : exec i s = .next t) :
    t.sent.length + s.fwc.toNat = s.sent.length + t.fwc.toNat := by
  rcases exec_relay_cases hi h with ⟨-, hfwc, hsent⟩ | ⟨o, -, hlt, hfwc, hsent⟩
  · rw [hfwc, hsent]
  · have hsucc : (s.fwc + 1).toNat = s.fwc.toNat + 1 := by bv_omega
    rw [hfwc, hsent, hsucc, List.length_append, List.length_singleton]
    omega

theorem RelayedSince.of_step {s t u : State} (ht : RelayedSince s t) (h : step t = .next u) :
    RelayedSince s u := by
  rcases takeNext_cases h with ⟨-, rfl⟩ | ⟨r, rest, i, hinbox, hdecode, hexec⟩
  · exact ht
  · obtain ⟨hcounted, hhop, hnoReset⟩ := ht
    rw [hinbox] at hnoReset
    have hi : i ≠ .reset := by
      rintro rfl
      exact hnoReset r List.mem_cons_self hdecode
    have hone : u.sent.length + t.fwc.toNat = t.sent.length + u.fwc.toNat :=
      exec_keeps_counted (s := { t with inbox := rest }) hi hexec
    have hrest : u.inbox = rest := exec_inbox hexec
    refine ⟨by omega, exec_keeps_hopInv (s := { t with inbox := rest }) hhop hexec, ?_⟩
    rw [hrest]
    exact fun q hq => hnoReset q (List.mem_cons_of_mem r hq)

end Sys2Proof.Machine
end

section
/-! Proofs of the forward family (43_forward_controller.md). -/

namespace Sys2Proof.Machine

/-- Settles O48: along a run without RESET every message sent is one count of FWC, and FWC ends at
or below the ceiling. -/
theorem atMostMaxHopsMessagesAreRelayed : Obligations.AtMostMaxHopsMessagesAreRelayed := by
  unfold Obligations.AtMostMaxHopsMessagesAreRelayed
  intro n s t hhop hnoReset hrun
  obtain ⟨hcounted, hhop', -⟩ : RelayedSince s t :=
    run_keeps (fun _ _ hu => hu.of_step) ⟨rfl, hhop, hnoReset⟩ hrun
  have hle : t.fwc.toNat ≤ Config.params.maxHops.toNat := hhop'
  exact ⟨hcounted, hhop', by omega⟩

/-- Settles O45: each row is MAYBE_FORWARD, which forwards or does nothing by its decision. -/
theorem maybeForwardDecidesAndCounts : Obligations.MaybeForwardDecidesAndCounts := by
  unfold Obligations.MaybeForwardDecidesAndCounts
  intro i m s hg
  rw [exec_eq_maybeForward_of_generic hg, exec_maybeForward]
  rcases maybeForward_cases Config.params m s with ⟨hok, h⟩ | ⟨hnot, h⟩
  · rw [h, if_pos hok]
    rfl
  · rw [h, if_neg hnot]
    rfl

/-- Settles O47: an operation that relays a message finds FWC below the ceiling. -/
theorem atTheCeilingNothingIsSent : Obligations.AtTheCeilingNothingIsSent := by
  unfold Obligations.AtTheCeilingNothingIsSent
  intro i s t hi hceiling h
  rcases exec_relay_cases hi h with ⟨hforwarded, hfwc, hsent⟩ | ⟨o, -, hlt, -⟩
  · exact ⟨hsent, hfwc, hforwarded⟩
  · exact absurd hceiling (BitVec.ne_of_lt hlt)

/-- Settles O49: the metrics reach the Message in the output and nothing else. -/
theorem signalMetricsPlayNoPart : Obligations.SignalMetricsPlayNoPart := by
  unfold Obligations.SignalMetricsPlayNoPart
  refine ⟨fun c g g' s => ?_, fun b g g' s t h => ?_⟩
  · rw [exec_maybeForward, exec_maybeForward, maybeForward_metrics]
  · obtain ⟨r, hfeed, rfl⟩ := receiveByte_next h
    exact ⟨deliver Config.params g' r, receiveByte_of_feed hfeed,
      deliver_metrics Config.params g g' r⟩

/-- Settles O46: every reason not to forward leaves the state as it is, and zero is at or below
every FWC. -/
theorem refusedForwardIsSilent : Obligations.RefusedForwardIsSilent := by
  unfold Obligations.RefusedForwardIsSilent
  refine ⟨fun m s hnot => ?_, fun p m s => ⟨fun hmarker => ?_, fun hceiling => ?_, fun hzero => ?_⟩⟩
  · have hsilent : exec (.maybeForward m) s = .next { s with out := .outgoing none } := by
      rw [exec_maybeForward, maybeForward_of_not hnot]
      rfl
    exact ⟨(exec_eq_maybeForward_of_generic rfl s).trans hsilent, hsilent⟩
  · exact maybeForward_of_not fun ⟨hstarts, _⟩ => hmarker hstarts
  · exact maybeForward_of_not (not_forwardOk_of_maxHops_le hceiling m)
  · have hceiling : p.maxHops ≤ s.fwc := hzero ▸ Nat.zero_le s.fwc.toNat
    exact maybeForward_of_not (not_forwardOk_of_maxHops_le hceiling m)

end Sys2Proof.Machine
end

section
/-! SUPPORT. The system operations and the host interface (44_system_and_host.md): what each
operation of the host answers, when the decoder is already reset, and a run of a step that changes
nothing. -/

namespace Sys2Proof.Machine

/-- RESET is the full reset and the clearing of the counters, with no output (R195). -/
theorem exec_reset (s : State) :
    exec .reset s = .next (s.fullReset.clearCounters.returning .none) := rfl

/-- DEC_RESET is the full reset alone, with no output (R196). -/
theorem exec_decReset (s : State) : exec .decReset s = .next (s.fullReset.returning .none) := rfl

/-- TRANSFORM answers the transform of its operand with the block's own record (R175). -/
theorem exec_transform (x : List Byte) (s : State) :
    exec (.transform x) s = .next (s.returning (.bytes (Config.params.transform x))) := rfl

/-- RX_BYTE delivers what its FEED comes to, with the block's own record (R198). -/
theorem exec_rxByte_of_feed {b : Byte} {g : Sig} {s : State} {r : State × DecoderEvent}
    (h : feed b s = .ok r) : exec (.rxByte b g) s = .next (deliver Config.params g r) :=
  receiveByte_of_feed h

/-- In S_PRE the match position counts the bytes in BUF, and the row's other registers are 0: with
nothing matched the decoder is reset (R30, R196). -/
theorem DecoderInv.isReset_of_unmatched {s : State} (hinv : DecoderInv s) (hp : s.phase = .pre)
    (hmpos : s.mpos = 0) : DecoderIsReset s := by
  obtain ⟨hfill, hpre, -⟩ := hinv
  obtain ⟨hlen, -, -, hhlen, hhcnt, hplen, hpcnt, htcnt⟩ := hpre hp
  have hempty : s.len = 0 := hlen.trans hmpos
  have hbuf : s.buf = [] := by
    rw [BufferFilled, hempty] at hfill
    exact List.map_eq_nil_iff.mp hfill
  exact ⟨hp, hmpos, hempty, hbuf, hhlen, hhcnt, hplen, hpcnt, htcnt⟩

/-- A state that a step leaves as it is stays as it is along every run. -/
theorem run_of_step_same {s : State} (h : step s = .next s) (n : Nat) :
    Host.Core.run Sys2Proof.core n s = .next s := by
  have hcore : Sys2Proof.core.step s = .next s := h
  induction n with
  | zero => rfl
  | succ n ih =>
    simp only [Host.Core.run, hcore]
    exact ih

end Sys2Proof.Machine
end

section
/-! Proofs of the system and host family (44_system_and_host.md). -/

namespace Sys2Proof.Machine

/-- Settles O7: a step with nothing presented answers the state it began in, and so does every run
of such steps. -/
theorem nothingPresentedNothingChanges : Obligations.NothingPresentedNothingChanges := by
  unfold Obligations.NothingPresentedNothingChanges
  exact fun n s hidle => run_of_step_same (step_idle hidle) n

/-- Settles O52: the FEED completes under the invariants; RX_BYTE hands a delivered payload to
MAYBE_FORWARD in the state its FEED leaves, and the outputs of FEED and of TRANSFORM, which the
operations presented one by one leave on the way, are not read. -/
theorem receiveIsFeedTransformForward : Obligations.ReceiveIsFeedTransformForward := by
  unfold Obligations.ReceiveIsFeedTransformForward
  intro s b g hinv
  obtain ⟨t, ev, hfeed, -⟩ := feed_completes hinv b
  have hrx := exec_rxByte_of_feed (g := g) hfeed
  refine ⟨t.returning (.event ev), ev, execFeed_of_feed hfeed, rfl, ?_⟩
  cases ev with
  | frameReady f =>
    rw [deliver_of_frameReady _ g t f (.bytes (Config.params.transform f.payload))] at hrx
    exact .inl ⟨f, _, _, _, _, rfl, exec_transform _ _, rfl, exec_maybeForward _ _, rfl, hrx⟩
  | pending => exact .inr ⟨rfl, hrx⟩
  | error k => exact .inr ⟨rfl, hrx⟩

/-- Settles O9: the full reset, the clearing of the counters and the empty output write every field
but the host's side. -/
theorem resetOperationFromAnyState : Obligations.ResetOperationFromAnyState := by
  unfold Obligations.ResetOperationFromAnyState
  exact exec_reset

/-- Settles O10: DEC_RESET is the full reset, which leaves a decoder that has matched nothing as it
is. -/
theorem decResetOperationFromAnyState : Obligations.DecResetOperationFromAnyState := by
  unfold Obligations.DecResetOperationFromAnyState
  refine ⟨exec_decReset, fun s hinv hp hmpos => ?_⟩
  rw [exec_decReset, fullReset_of_isReset (hinv.isReset_of_unmatched hp hmpos)]
  rfl

/-- Settles O51: the output is written and nothing else; the counters are read as they stand. -/
theorem statsReadHasNoSideEffect : Obligations.StatsReadHasNoSideEffect := by
  unfold Obligations.StatsReadHasNoSideEffect
  exact fun _ => rfl

end Sys2Proof.Machine
end

section
/-! Proofs of the exceptions family (60_exceptions.md), with what an Error event says of the FEED
that answered it. -/

namespace Sys2Proof.Machine

/-- A FEED whose event is an error did nothing but raise it (R222). -/
theorem FeedEffect.eq_raiseError {b : Byte} {s t : State} {k : ErrorKind}
    (h : FeedEffect b s t (.error k)) : t = (raiseError k s).1 := by
  cases h with
  | raised => rfl

/-- Settles O40: the row answers what its FEED answers, and a FEED whose event is an error has
raised it; `raiseError` is the full reset, with one more in CEC for a CRC mismatch. -/
theorem errorEntryResetsAndCounts : Obligations.ErrorEntryResetsAndCounts := by
  unfold Obligations.ErrorEntryResetsAndCounts
  intro i b s t k hg hexec hout
  rw [exec_eq_feed_of_generic hg] at hexec
  obtain ⟨u, ev, hfeed, rfl⟩ := execFeed_next hexec
  obtain rfl : ev = .error k := Output.event.inj hout
  rw [(feed_effect hfeed).eq_raiseError, raiseError_eq]
  rfl

end Sys2Proof.Machine
end
